-- ==== Sys2Proof/Word.lean ====
section
/-! DEFINITION. The widths the block's values have: a byte of the stream, the 16-bit length field, a
32-bit host register or counter (`00_scope.md` R8, R12; `10_state.md` R21 to R27, R35, R38). All values are unsigned. -/

namespace Sys2Proof

/-- One byte of the received or transmitted stream, 0..255 (R12). -/
abbrev Byte := BitVec 8

/-- The 16-bit length field (R25). -/
abbrev Half := BitVec 16

/-- A host register (`XLEN` = 32) or an event counter (`CNT_W` = 32) (R8). -/
abbrev Word := BitVec 32

end Sys2Proof
end

