-- ==== Sys2Proof/Config.lean ====
section
/-! DEFINITION. The build-time parameter and the constants the source fixes (`00_scope.md` R7, R8), and the one free
value: what a buffer location holds that nothing has written since the buffer was last emptied
(`93_implementation_defined.md` U2). -/

namespace Sys2Proof

/-- The build-time parameters of one block. `MAX_LEN` (R8) ranges over 0..65535, which is what 16 bits hold.
A state carries its `Config`; no operation changes it (R8, R221). -/
structure Config where
  /-- `MAX_LEN`: a candidate with `LEN > MAX_LEN` is rejected as Oversized. -/
  maxLen : Half
  deriving DecidableEq, Repr

/-- The default of R8: `MAX_LEN` = 256. -/
def Config.default : Config := { maxLen := 256#16 }

/-- `CAP = 8 + MAX_LEN`: capacity of the replay buffer in bytes (R8, R62). -/
def Config.cap (c : Config) : Nat := 8 + c.maxLen.toNat

/-- `NW` (R8, R22): the width in bits of the byte counter `N`, the least `w` with `2^w > CAP`. -/
def Config.nw (c : Config) : Nat := Nat.log2 c.cap + 1

/-- FREE VALUE (U2, "any value"; log entry 4): the content of a `BUF` location that holds no byte of the candidate.
No rule reads one; it has no body, so nothing can be proved about it. -/
opaque Config.staleByte : Nat → Byte

/-- `SYNC1` (R7): the first byte of the sync marker. -/
def sync1Byte : Byte := 0xB5#8

/-- `SYNC2` (R7): the second byte of the sync marker. -/
def sync2Byte : Byte := 0x62#8

/-- `ACK_CLASS` (R7): the class of both acknowledgement frames. -/
def ackClass : Byte := 0x05#8

/-- `ACK_ID` (R7): the id of an ACK-ACK frame. -/
def ackId : Byte := 0x01#8

/-- `NAK_ID` (R7): the id of an ACK-NAK frame. -/
def nakId : Byte := 0x00#8

/-- The largest payload the 16-bit length field expresses (R161). -/
def maxPayload : Nat := 65535

end Sys2Proof
end

