-- ==== Sys2Proof/Syntax.lean ====
section
/-! DEFINITION. The operations of the block: one constructor per row of `opcode_table.json` (R2, R94, R95, R80, R89),
and the form in which an operation is presented to the block from outside (R9). -/

namespace Sys2Proof

/-- `PHASE` (R21, R93): which per-byte operation handles the next byte. Nine values; codes 9 to 15 are never held
(U3: "A model uses a nine-valued enumeration"). -/
inductive Phase where
  | hunt1 | hunt2 | cls | id | lenLo | lenHi | payload | ckA | ckB
  deriving DecidableEq, Repr

/-- The operations of the block. Formats RXBYTE (twelve rows), WIRE (three), HOST (two), CMD (two), PORT (three). -/
inductive Instr where
  /-- `SKIP` (R122): a byte, not `0xB5`, while hunting. -/
  | skip (x : Byte)
  /-- `SYNC1` (R123): `0xB5` while hunting. -/
  | sync1
  /-- `SYNC2` (R124): `0x62` after a held `0xB5`. -/
  | sync2
  /-- `RESYNC1` (R125): `0xB5` after a held `0xB5`. -/
  | resync1
  /-- `DESYNC` (R126): any other byte after a held `0xB5`. -/
  | desync (x : Byte)
  /-- `CLS` (R127): the class byte. -/
  | cls (x : Byte)
  /-- `IDB` (R128): the id byte. -/
  | idb (x : Byte)
  /-- `LENL` (R129): the low byte of the length. -/
  | lenl (x : Byte)
  /-- `LENH` (R130): the high byte of the length. -/
  | lenh (x : Byte)
  /-- `PAYL` (R131): a payload byte. -/
  | payl (x : Byte)
  /-- `CKA` (R132): the received first checksum byte. -/
  | cka (x : Byte)
  /-- `CKB` (R133): the received second checksum byte. -/
  | ckb (x : Byte)
  /-- `FRAME` (R80): a frame on the wire, class, id, payload and the two checksum bytes it carries. The two length
  bytes are the payload's length (R83). -/
  | frame (c i : Byte) (p : List Byte) (a b : Byte)
  /-- `ACK_ACK` (R89): the acknowledgement frame of the message of class `c` and id `i`, with its checksum bytes. -/
  | ackAck (c i a b : Byte)
  /-- `ACK_NAK` (R89): the negative acknowledgement frame of the message of class `c` and id `i`. -/
  | ackNak (c i a b : Byte)
  /-- `RD i` (R170). -/
  | rd (i : Nat)
  /-- `WR i, v` (R171). -/
  | wr (i : Nat) (v : Word)
  /-- `FLUSH` (R172). -/
  | flush
  /-- `ABORT` (R173). -/
  | abort
  /-- `ENCODE(class, id, payload)` (R160). -/
  | encode (c i : Byte) (p : List Byte)
  /-- `RX b` (R120). -/
  | rx (b : Byte)
  /-- `RESET` (R220). -/
  | reset
  deriving DecidableEq, Repr

/-- Where an operation is presented to the block. The spec gives the host bus and the ports no binary form (R8
`HOST_BASE` OPEN; R95 "`ENCODE` and `RESET` have no encoding: they are ports of the block"). Log entry 2, DESIGN
CHOICE: the ports follow the `format` column of `opcode_table.json`. -/
inductive Port where
  /-- RXBYTE rows: one received byte, whose opcode is the pair (`PHASE`, byte) of R94. -/
  | rxByte
  /-- WIRE rows: the bytes of a frame, delivered one after the other with nothing between them (R97 `RX*`). -/
  | wire
  /-- HOST row `RD`: a register number. -/
  | hostRead
  /-- HOST row `WR`: a register number and a value. -/
  | hostWrite
  /-- CMD rows: a value for the register `CMD` (R45). -/
  | cmd
  /-- PORT row `ENCODE`: class, id and payload. -/
  | encode
  /-- PORT row `RX`: one received byte. -/
  | rx
  /-- PORT row `RESET`: the reset line. -/
  | reset
  deriving DecidableEq, Repr

/-- One operation as it is presented to the block: the port and the bytes on it (log entry 2). -/
structure Request where
  port : Port
  bytes : List Byte
  deriving DecidableEq, Repr

/-- The operations presented at one instant (R9); `Machine/Fetch.lean` gives the order in which they are applied. -/
abbrev Instant := List Request

end Sys2Proof
end

