-- ==== Sys2Proof/WellFormed.lean ====
section
/-! DEFINITION. Which terms of `Instr` are operations of the block: the side conditions on operands that R94 and R80
give, and the 32-bit register number of the request's layout (log entry 2). -/

namespace Sys2Proof

/-- A frame whose class, id and length make it an acknowledgement frame (R89); it is written `ackAck` or `ackNak`. -/
def isAckShape (c i : Byte) (p : List Byte) : Bool :=
  c == ackClass && (i == ackId || i == nakId) && p.length == 2

/-- The term is an operation of the block. `SKIP` takes any byte but `0xB5`, `DESYNC` any but `0x62` and `0xB5` (R94);
a frame's payload is at most 65535 bytes (R83) and an acknowledgement frame goes by its own name (R89).
`ENCODE` takes a payload of any length: R161 gives the operation an outcome on longer ones too. -/
def WellFormed : Instr → Bool
  | .skip x => x != sync1Byte
  | .sync1 => true
  | .sync2 => true
  | .resync1 => true
  | .desync x => x != sync2Byte && x != sync1Byte
  | .cls _ => true
  | .idb _ => true
  | .lenl _ => true
  | .lenh _ => true
  | .payl _ => true
  | .cka _ => true
  | .ckb _ => true
  | .frame c i p _ _ => decide (p.length ≤ maxPayload) && !isAckShape c i p
  | .ackAck _ _ _ _ => true
  | .ackNak _ _ _ _ => true
  | .rd i => decide (i < 2 ^ 32)
  | .wr i _ => decide (i < 2 ^ 32)
  | .flush => true
  | .abort => true
  | .encode _ _ _ => true
  | .rx _ => true
  | .reset => true

end Sys2Proof
end

