-- ==== Sys2Proof/Decode.lean ====
section
/-! DEFINITION. From a presented request to the operation it is, and back: the selection table of R94, the frame
format of R80, the acknowledgement frames of R89, the command bits of R95, and the request layouts of log entry 2.
`decode` is total on any bytes and rejects by name. -/

namespace Sys2Proof

/-- Why a request names no operation. -/
inductive Reject where
  /-- The receive port hands over exactly one byte (R17, R120). -/
  | rxByteCount
  /-- The bytes on the wire port are not one whole frame of R80. -/
  | notAFrame
  /-- A host read carries a 4-byte register number (log entry 2). -/
  | hostReadLayout
  /-- A host write carries a 4-byte register number and a 4-byte value (log entry 2). -/
  | hostWriteLayout
  /-- A command value is 4 bytes (R45). -/
  | cmdLayout
  /-- An encode request carries a class and an id before the payload (R160). -/
  | encodeLayout
  /-- The reset line carries no operand (R220). -/
  | resetLayout
  deriving DecidableEq, Repr

/-- `PHASE` codes (R93). -/
def phaseCode : Phase → Nat
  | .hunt1 => 0
  | .hunt2 => 1
  | .cls => 2
  | .id => 3
  | .lenLo => 4
  | .lenHi => 5
  | .payload => 6
  | .ckA => 7
  | .ckB => 8

/-- The phase a code stands for; 9 to 15 are unused (R93). -/
def phaseOfCode : Nat → Option Phase
  | 0 => some .hunt1
  | 1 => some .hunt2
  | 2 => some .cls
  | 3 => some .id
  | 4 => some .lenLo
  | 5 => some .lenHi
  | 6 => some .payload
  | 7 => some .ckA
  | 8 => some .ckB
  | _ => none

/-- The opcode map of R94: the pair (`PHASE`, byte) selects exactly one of the twelve per-byte operations. -/
def select (ph : Phase) (x : Byte) : Instr :=
  match ph with
  | .hunt1 => if x = sync1Byte then .sync1 else .skip x
  | .hunt2 => if x = sync2Byte then .sync2 else if x = sync1Byte then .resync1 else .desync x
  | .cls => .cls x
  | .id => .idb x
  | .lenLo => .lenl x
  | .lenHi => .lenh x
  | .payload => .payl x
  | .ckA => .cka x
  | .ckB => .ckb x

/-- `L = byte[4] + 256 * byte[5]` (R67, R83). -/
def frameLen (l h : Byte) : Nat := l.toNat + 256 * h.toNat

/-- The low byte of a length (R80 offset 4). -/
def lenLow (n : Nat) : Byte := BitVec.ofNat 8 n

/-- The high byte of a length (R80 offset 5). -/
def lenHigh (n : Nat) : Byte := BitVec.ofNat 8 (n / 256)

/-- The bytes a frame's checksum covers, in wire order: class, id, both length bytes, payload (R85, R112). -/
def frameBody (c i : Byte) (p : List Byte) : List Byte :=
  c :: i :: lenLow p.length :: lenHigh p.length :: p

/-- The wire image of a frame (R80): sync marker, body, `CK_A`, `CK_B` in that order (R68). -/
def wireBytes (c i : Byte) (p : List Byte) (a b : Byte) : List Byte :=
  sync1Byte :: sync2Byte :: (frameBody c i p ++ [a, b])

/-- The name of a frame: an acknowledgement frame goes by its own (R89). -/
def frameOf (c i : Byte) (p : List Byte) (a b : Byte) : Instr :=
  match p with
  | [x, y] =>
    if c = ackClass ∧ i = ackId then .ackAck x y a b
    else if c = ackClass ∧ i = nakId then .ackNak x y a b
    else .frame c i p a b
  | _ => .frame c i p a b

/-- One whole frame from its wire image (R80, R87: the length is learnt from the frame alone). -/
def decodeWire : List Byte → Except Reject Instr
  | s1 :: s2 :: c :: i :: l :: h :: rest =>
    if s1 = sync1Byte ∧ s2 = sync2Byte then
      match rest.drop (frameLen l h) with
      | [a, b] => .ok (frameOf c i (rest.take (frameLen l h)) a b)
      | _ => .error .notAFrame
    else .error .notAFrame
  | _ => .error .notAFrame

/-- A 32-bit value from its four bytes, least significant first (log entry 2). -/
def word32 (a b c d : Byte) : Word := d ++ c ++ b ++ a

/-- The four bytes of a 32-bit value, least significant first (log entry 2). -/
def bytes32 (w : Word) : List Byte :=
  [w.extractLsb' 0 8, w.extractLsb' 8 8, w.extractLsb' 16 8, w.extractLsb' 24 8]

/-- The command bits of R95: bit 0 is `FLUSH`, bit 1 `ABORT`; with both, `FLUSH` then `ABORT`, which is `FLUSH` alone
(R174); with neither it "selects nothing" and is the write `WR 9, v` that it is (R171). -/
def decodeCmd (v : Word) : Instr :=
  if v.getLsbD 0 then .flush
  else if v.getLsbD 1 then .abort
  else .wr 9 v

/-- The operation a request is, in phase `ph` (which only the receive-byte port looks at, R94). -/
def decode (ph : Phase) (r : Request) : Except Reject Instr :=
  match r.port with
  | .rxByte =>
    match r.bytes with
    | [x] => .ok (select ph x)
    | _ => .error .rxByteCount
  | .wire => decodeWire r.bytes
  | .hostRead =>
    match r.bytes with
    | [a, b, c, d] => .ok (.rd (word32 a b c d).toNat)
    | _ => .error .hostReadLayout
  | .hostWrite =>
    match r.bytes with
    | [a, b, c, d, e, f, g, h] => .ok (.wr (word32 a b c d).toNat (word32 e f g h))
    | _ => .error .hostWriteLayout
  | .cmd =>
    match r.bytes with
    | [a, b, c, d] => .ok (decodeCmd (word32 a b c d))
    | _ => .error .cmdLayout
  | .encode =>
    match r.bytes with
    | c :: i :: p => .ok (.encode c i p)
    | _ => .error .encodeLayout
  | .rx =>
    match r.bytes with
    | [x] => .ok (.rx x)
    | _ => .error .rxByteCount
  | .reset =>
    match r.bytes with
    | [] => .ok .reset
    | _ => .error .resetLayout

/-- The request of an operation, written from the same tables. -/
def encode : Instr → Request
  | .skip x => { port := .rxByte, bytes := [x] }
  | .sync1 => { port := .rxByte, bytes := [sync1Byte] }
  | .sync2 => { port := .rxByte, bytes := [sync2Byte] }
  | .resync1 => { port := .rxByte, bytes := [sync1Byte] }
  | .desync x => { port := .rxByte, bytes := [x] }
  | .cls x => { port := .rxByte, bytes := [x] }
  | .idb x => { port := .rxByte, bytes := [x] }
  | .lenl x => { port := .rxByte, bytes := [x] }
  | .lenh x => { port := .rxByte, bytes := [x] }
  | .payl x => { port := .rxByte, bytes := [x] }
  | .cka x => { port := .rxByte, bytes := [x] }
  | .ckb x => { port := .rxByte, bytes := [x] }
  | .frame c i p a b => { port := .wire, bytes := wireBytes c i p a b }
  | .ackAck c i a b => { port := .wire, bytes := wireBytes ackClass ackId [c, i] a b }
  | .ackNak c i a b => { port := .wire, bytes := wireBytes ackClass nakId [c, i] a b }
  | .rd i => { port := .hostRead, bytes := bytes32 (BitVec.ofNat 32 i) }
  | .wr i v => { port := .hostWrite, bytes := bytes32 (BitVec.ofNat 32 i) ++ bytes32 v }
  | .flush => { port := .cmd, bytes := bytes32 1#32 }
  | .abort => { port := .cmd, bytes := bytes32 2#32 }
  | .encode c i p => { port := .encode, bytes := c :: i :: p }
  | .rx b => { port := .rx, bytes := [b] }
  | .reset => { port := .reset, bytes := [] }

/-- The phase whose row of R94 an operation is; `none` for an operation that no phase selects (HOST, CMD, PORT and
WIRE rows, which run in every phase). -/
def rowPhase : Instr → Option Phase
  | .skip _ => some .hunt1
  | .sync1 => some .hunt1
  | .sync2 => some .hunt2
  | .resync1 => some .hunt2
  | .desync _ => some .hunt2
  | .cls _ => some .cls
  | .idb _ => some .id
  | .lenl _ => some .lenLo
  | .lenh _ => some .lenHi
  | .payl _ => some .payload
  | .cka _ => some .ckA
  | .ckb _ => some .ckB
  | .frame _ _ _ _ _ => none
  | .ackAck _ _ _ _ => none
  | .ackNak _ _ _ _ => none
  | .rd _ => none
  | .wr _ _ => none
  | .flush => none
  | .abort => none
  | .encode _ _ _ => none
  | .rx _ => none
  | .reset => none

/-- How many bytes a request of the operation has: 1 for a received byte, `8 + L` for a frame (R86), 10 for an
acknowledgement frame (R90), and the layouts of log entry 2. -/
def requestLength : Instr → Nat
  | .frame _ _ p _ _ => 8 + p.length
  | .ackAck _ _ _ _ => 10
  | .ackNak _ _ _ _ => 10
  | .rd _ => 4
  | .wr _ _ => 8
  | .flush => 4
  | .abort => 4
  | .encode _ _ p => 2 + p.length
  | .reset => 0
  | .rx _ => 1
  | .skip _ => 1
  | .sync1 => 1
  | .sync2 => 1
  | .resync1 => 1
  | .desync _ => 1
  | .cls _ => 1
  | .idb _ => 1
  | .lenl _ => 1
  | .lenh _ => 1
  | .payl _ => 1
  | .cka _ => 1
  | .ckb _ => 1

/-- The bytes of a number, least significant first: the first byte of a table word is the first on its port. -/
def bytesOf : Nat → Nat → List Byte
  | 0, _ => []
  | k + 1, w => BitVec.ofNat 8 w :: bytesOf k (w / 256)

/-- The phase in which a table word is read (log entry 3). The table's words carry no phase but in the 16-bit form
(`PHASE` code in bits 11..8, byte in bits 7..0); an 8-bit word is read where a row of R94 fixes it, `0x62` in `HUNT2`,
and while hunting otherwise. -/
def tablePhase (nbits w : Nat) : Phase :=
  if nbits ≤ 8 then (if w = 0x62 then .hunt2 else .hunt1)
  else if nbits ≤ 16 then (phaseOfCode (w / 256 % 16)).getD .hunt1
  else .hunt1

/-- The request a table word is (log entry 3): an 8-bit word is a received byte, but for `01` and `02`, the words the
table fixes for the CMD rows `FLUSH` and `ABORT`; up to 16 bits the pair (`PHASE`, byte); up to 32 bits a value for
`CMD`; a longer word the bytes of a frame, filled up with zero bytes to the length its own length field gives. -/
def tableRequest (nbits w : Nat) : Request :=
  if nbits ≤ 8 then
    if w = 1 ∨ w = 2 then { port := .cmd, bytes := bytesOf 4 w }
    else { port := .rxByte, bytes := bytesOf 1 w }
  else if nbits ≤ 16 then { port := .rxByte, bytes := bytesOf 1 w }
  else if nbits ≤ 32 then { port := .cmd, bytes := bytesOf 4 w }
  else { port := .wire, bytes := bytesOf (max ((nbits + 7) / 8) (8 + w / 2 ^ 32 % 65536)) w }

/-- What the decoder reads from an instruction whose bits are `w`, numbered as `opcode_table.json` numbers them. -/
def decodeTableWord (nbits w : Nat) : Option Instr :=
  match decode (tablePhase nbits w) (tableRequest nbits w) with
  | .ok i => some i
  | .error _ => none

end Sys2Proof
end

