-- ==== Sys2Proof/Machine/State.lean ====
section
/-! DEFINITION. The state of the block (`10_state.md` R20), the event records (`30_encoding.md` R92), and the reasons
a step can stop. -/

namespace Sys2Proof.Machine

/-- The cells of `BUF` that hold a byte, addresses strictly rising (R60, R61). An address that is not listed holds no
byte of the candidate; what it physically holds is the free value `Config.staleByte` (U2, log entry 4). -/
abbrev Memory := List Host.Cell

/-- The canonical form: addresses strictly rising, so equal buffers are equal lists. -/
abbrev Memory.wf (m : Memory) : Prop := m.Pairwise (fun c d => c.1 < d.1)

/-- The record of one accepted frame or one rejected candidate (R92). -/
inductive Event where
  /-- `Frame` (code 1): a candidate's checksum matched (R134). -/
  | frame (cls id : Byte) (len : Half) (payload : List Byte)
  /-- `ChecksumError` (code 2): the whole candidate, sync marker and received checksum included (R193). -/
  | checksumError (raw : List Byte)
  /-- `Oversized` (code 3): the header of a candidate with `LEN > MAX_LEN` (R192). -/
  | oversized (cls id : Byte) (len : Half)
  deriving DecidableEq, Repr

/-- The two synchronous conditions of R190 that reject a candidate. -/
inductive RejectKind where
  | oversized
  | checksumError
  deriving DecidableEq, Repr

/-- The state of R20, the model's own output history `rdq` and the input `input` of R9. -/
structure State where
  /-- `PHASE` (R21). -/
  phase : Phase
  /-- `N` (R22): how many bytes `BUF` holds, and the index at which the next byte is stored. Its register is
  `Config.nw` bits wide; it "never exceeds `CAP`, so it never wraps" and is a number here (log entry 11). -/
  n : Nat
  /-- `CLASS` (R23). -/
  cls : Byte
  /-- `ID` (R24). -/
  id : Byte
  /-- `LEN` (R25). -/
  len : Half
  /-- `CK_A` (R26). -/
  ckA : Byte
  /-- `CK_B` (R27). -/
  ckB : Byte
  /-- `BUF` (R34, R60). -/
  buf : Memory
  /-- `FRAME_CNT` (R35). -/
  frameCnt : Word
  /-- `CKERR_CNT` (R35). -/
  ckerrCnt : Word
  /-- `OVSZ_CNT` (R35). -/
  ovszCnt : Word
  /-- `SKIP_CNT` (R35). -/
  skipCnt : Word
  /-- `ABORT_CNT` (R35). -/
  abortCnt : Word
  /-- `EVQ` (R48): every event record the block has put out, oldest first. -/
  evq : List Event
  /-- `TXQ` (R48): every byte sent to the UART transmitter, oldest first. -/
  txq : List Byte
  /-- The values `RD` has returned, oldest first: the model's own history, read by nothing (R10 "the values returned
  by `RD`"; log entry 5). -/
  rdq : List Word
  /-- The operations still to be applied, instant by instant (R9 "Its input is a totally ordered sequence of
  *operations*"; log entries 1 and 2). -/
  input : List Instant
  /-- The build-time parameters (R8); no operation changes them (log entry 6). -/
  cfg : Config
  deriving DecidableEq, Repr

/-- Why the machine stops. The spec has no fault (R208, `93_implementation_defined.md` section 2): neither of these is
reachable from reset, and that is a statement of this package (`StepNeverFaultsFromConsistentState`). -/
inductive Fault where
  /-- An access to an address of the buffer space that does not exist (R60: `BUF[0]` to `BUF[CAP-1]`). Raised by
  `bufAppend`, `bufRead` and `bufSlice`, only in states that break R62. Safe: the model stops. -/
  | bufferAddress (i : Nat)
  /-- A replay used up the work bound of R135. Raised by `drain`; never reached, in any state. Safe. -/
  | replayBound
  deriving DecidableEq, Repr

/-- Why an operation has no meaning in a state. -/
inductive Refusal where
  /-- An arm of `exec` without a meaning. No arm is left so. Safe. -/
  | notModelled (mnemonic : String)
  /-- Raised by the meanings of the twelve per-byte operations when the pair (`PHASE`, byte) selects another row of
  R94, so that the block does not perform this one (log entry 7). `step` never reaches it. Safe. -/
  | notSelected
  deriving DecidableEq, Repr

/-- The block right after `RESET` (R50, R222), nothing put out yet (R48), nothing presented, `MAX_LEN` at its default
(R8). -/
def State.reset : State where
  phase := .hunt1
  n := 0
  cls := 0#8
  id := 0#8
  len := 0#16
  ckA := 0#8
  ckB := 0#8
  buf := []
  frameCnt := 0#32
  ckerrCnt := 0#32
  ovszCnt := 0#32
  skipCnt := 0#32
  abortCnt := 0#32
  evq := []
  txq := []
  rdq := []
  input := []
  cfg := Config.default

end Sys2Proof.Machine
end

