-- ==== Sys2Proof/Machine/Flags.lean ====
section
/-! DEFINITION. The arithmetic of the block (`40_checksum.md` R110, R111, R117), its two status flags (`10_state.md`
R37), saturation (R36) and the numeric codes of events (R92). -/

namespace Sys2Proof.Machine

/-- `CkStep((a, b), x)` (R110): both additions mod 256, the second with the new value of the first accumulator. -/
def ckStep (ck : Byte × Byte) (x : Byte) : Byte × Byte :=
  (ck.1 + x, ck.2 + (ck.1 + x))

/-- `CK_INIT` (R111, D4): the value of both accumulators when a candidate begins. -/
def ckInit : Byte × Byte := (0#8, 0#8)

/-- `CkSeq(s)` (R111): the left fold of `CkStep` from `CK_INIT`. -/
def ckSeq (s : List Byte) : Byte × Byte := s.foldl ckStep ckInit

/-- `sat_32(v)` (R12): `min(v, 2^32 - 1)`. -/
def sat32 (v : Nat) : Word := BitVec.ofNat 32 (min v (2 ^ 32 - 1))

/-- `sat_32(C + k)`, the new value of a counter under `Bump(C, k)` (R36). -/
def satAdd (c : Word) (k : Nat) : Word := sat32 (c.toNat + k)

/-- `INCOMPLETE` (R37, R40): a candidate is pending. -/
def incomplete (s : State) : Bool := decide (0 < s.n)

/-- `HDR_VALID` (R37): the whole header is in. -/
def hdrValid (s : State) : Bool := decide (6 ≤ s.n)

/-- The 2-bit `kind` code of an event record (R92, R190); code 0, "no event", is no record's. -/
def eventKind : Event → BitVec 2
  | .frame _ _ _ _ => 1#2
  | .checksumError _ => 2#2
  | .oversized _ _ _ => 3#2

end Sys2Proof.Machine
end

