-- ==== Sys2Proof/Machine/Operands.lean ====
section
/-! DEFINITION. What the host reads from each register number (`10_state.md` R38 to R47, `43_host_ops.md` R170). Each
is a view of the state; `MemRead` and the slices of `BUF` are the buffer operands of R64. -/

namespace Sys2Proof.Machine

/-- `CAP` (R62) of this block. -/
def bufCap (s : State) : Nat := s.cfg.cap

/-- The byte listed at an address, if there is one. -/
def memLookup (m : Memory) (a : Nat) : Option Byte :=
  match m with
  | [] => none
  | c :: rest => if c.1 = a then some c.2 else memLookup rest a

/-- `BUF[i]` for an index inside the buffer: the listed byte, else the free value (U2, log entry 4). -/
def bufByte (s : State) (i : Nat) : Byte := (memLookup s.buf i).getD (Config.staleByte i)

/-- `BUF[lo .. hi)` (R13) as bytes. -/
def bufRange (s : State) (lo hi : Nat) : List Byte := (List.range' lo (hi - lo)).map (bufByte s)

/-- `BUF` as a sequence: "always means `BUF[0 .. N)`" (R34). -/
def bufBytes (s : State) : List Byte := bufRange s 0 s.n

/-- `MemRead(i, 1)` (R14, R64): an index outside `0 .. CAP - 1` names no location (R60). -/
def bufRead (s : State) (i : Nat) : Except Fault Byte :=
  if i < bufCap s then .ok (bufByte s i) else .error (.bufferAddress i)

/-- The reads of `BUF[lo .. hi)` (R64 c, d, e), one byte each; every location read must exist (R60). -/
def bufSlice (s : State) (lo hi : Nat) : Except Fault (List Byte) :=
  if hi ≤ bufCap s then .ok (bufRange s lo hi) else .error (.bufferAddress (hi - 1))

/-- `x[0]` `STATUS` (R39): `HDR_VALID` in bit 5, `INCOMPLETE` in bit 4, `PHASE` in bits 3..0, the rest 0. -/
def statusReg (s : State) : Word :=
  0#26 ++ BitVec.ofBool (hdrValid s) ++ BitVec.ofBool (incomplete s) ++ BitVec.ofNat 4 (phaseCode s.phase)

/-- `x[1]` `LEVEL` (R41): `N` in bits `[NW-1:0]`, zero-extended. -/
def levelReg (s : State) : Word := BitVec.ofNat 32 (s.n % 2 ^ s.cfg.nw)

/-- `x[2]` `HDR` (R42): `LEN` in bits 31..16, `ID` in bits 15..8, `CLASS` in bits 7..0. -/
def hdrReg (s : State) : Word := s.len ++ s.id ++ s.cls

/-- `x[3]` `CK` (R43): `CK_B` in bits 15..8, `CK_A` in bits 7..0. -/
def ckReg (s : State) : Word := 0#16 ++ s.ckB ++ s.ckA

/-- `x[10]` `MAXLEN` (R46). -/
def maxlenReg (s : State) : Word := s.cfg.maxLen.setWidth 32

/-- `x[i]` as the host reads it (R38, R170). `CMD` reads 0 (R45) and a number above 10 names nothing and reads 0
(R47). -/
def hostReg (s : State) (i : Nat) : Word :=
  match i with
  | 0 => statusReg s
  | 1 => levelReg s
  | 2 => hdrReg s
  | 3 => ckReg s
  | 4 => s.frameCnt
  | 5 => s.ckerrCnt
  | 6 => s.ovszCnt
  | 7 => s.skipCnt
  | 8 => s.abortCnt
  | 9 => 0#32
  | 10 => maxlenReg s
  | _ => 0#32

end Sys2Proof.Machine
end

