-- ==== Sys2Proof/Machine/Ops.lean ====
section
/-! DEFINITION. The named operations of the pseudocode (`00_scope.md` R14): `Append`, `Clear()`, `Bump`, `emit`,
`send`, the accumulation step, `Accept()` (R134), and the reject procedure `raise` (`60_exceptions.md` R195), which is
the block's only exception entry. There is no return operation (R196): resumption is the replay of the bytes that
`raise` hands back, done by `drain` in `Machine/Receive.lean`. -/

namespace Sys2Proof.Machine

/-- What one `Step` answers: the state after it and the bytes its reject, if it had one, puts in front of the pending
list (R120, R195); no bytes if it did not reject. -/
abbrev StepResult := Except Fault (State × List Byte)

/-- `MemWrite(a, 1, v)` on the cells: the address is listed once and the order kept. -/
def memStore (m : Memory) (a : Nat) (v : Byte) : Memory :=
  match m with
  | [] => [(a, v)]
  | c :: rest =>
    if c.1 < a then c :: memStore rest a v
    else if c.1 = a then (a, v) :: rest
    else (a, v) :: c :: rest

/-- The effect of `Append(v)` on a buffer with room: `MemWrite(N, 1, v); N <- N + 1` (R14). -/
def bufPush (v : Byte) (s : State) : State := { s with buf := memStore s.buf s.n v, n := s.n + 1 }

/-- `Append(v)` (R14, R64 a): there is no location at an index `CAP` or above (R60). -/
def bufAppend (v : Byte) (s : State) : Except Fault State :=
  if s.n < bufCap s then .ok (bufPush v s) else .error (.bufferAddress s.n)

/-- `PHASE <- p` (R14). -/
def setPhase (p : Phase) (s : State) : State := { s with phase := p }

/-- `CLASS <- x` (R127). -/
def setCls (x : Byte) (s : State) : State := { s with cls := x }

/-- `ID <- x` (R128). -/
def setId (x : Byte) (s : State) : State := { s with id := x }

/-- `LEN <- l` (R129, R130). -/
def setLen (l : Half) (s : State) : State := { s with len := l }

/-- `(CK_A, CK_B) <- CkStep((CK_A, CK_B), x)` (R110). -/
def accumulate (x : Byte) (s : State) : State :=
  { s with ckA := (ckStep (s.ckA, s.ckB) x).1, ckB := (ckStep (s.ckA, s.ckB) x).2 }

/-- `Clear()` (R33): the candidate ends; no counter, no event. The emptied buffer lists no cell (log entry 4). -/
def clear (s : State) : State :=
  { s with
    n := 0, phase := .hunt1, cls := 0#8, id := 0#8, len := 0#16, ckA := ckInit.1, ckB := ckInit.2, buf := [] }

/-- `emit E` (R14). -/
def emit (e : Event) (s : State) : State := { s with evq := s.evq ++ [e] }

/-- `send bs` (R14). -/
def send (bs : List Byte) (s : State) : State := { s with txq := s.txq ++ bs }

/-- The value an `RD` returns, kept for claims (log entry 5). -/
def returnWord (w : Word) (s : State) : State := { s with rdq := s.rdq ++ [w] }

/-- `Bump(FRAME_CNT)` (R36). -/
def bumpFrame (s : State) : State := { s with frameCnt := satAdd s.frameCnt 1 }

/-- `Bump(CKERR_CNT)` (R36). -/
def bumpCkerr (s : State) : State := { s with ckerrCnt := satAdd s.ckerrCnt 1 }

/-- `Bump(OVSZ_CNT)` (R36). -/
def bumpOvsz (s : State) : State := { s with ovszCnt := satAdd s.ovszCnt 1 }

/-- `Bump(SKIP_CNT, k)` (R36). -/
def bumpSkip (k : Nat) (s : State) : State := { s with skipCnt := satAdd s.skipCnt k }

/-- `Bump(ABORT_CNT)` (R36). -/
def bumpAbort (s : State) : State := { s with abortCnt := satAdd s.abortCnt 1 }

/-- The five counters set to 0, which only `RESET` does (R220, R221). -/
def zeroCounters (s : State) : State :=
  { s with frameCnt := 0#32, ckerrCnt := 0#32, ovszCnt := 0#32, skipCnt := 0#32, abortCnt := 0#32 }

/-- `Accept()` (R134): the `Frame` event, `FRAME_CNT`, `Clear()`. -/
def accept (s : State) : Except Fault State :=
  match bufSlice s 6 (6 + s.len.toNat) with
  | .error f => .error f
  | .ok p => .ok (clear (bumpFrame (emit (.frame s.cls s.id s.len p) s)))

/-- The event of a reject and its counter, the first line of R195. -/
def report (k : RejectKind) (raw : List Byte) (s : State) : State :=
  match k with
  | .oversized => bumpOvsz (emit (.oversized s.cls s.id s.len) s)
  | .checksumError => bumpCkerr (emit (.checksumError raw) s)

/-- `raise K` (R195), the one exception entry of the block: report the candidate, hand back `BUF[1 .. N)` to be
re-scanned ahead of anything pending, count the dropped first byte, `Clear()`. Nothing else is saved. -/
def raise (k : RejectKind) (s : State) : StepResult :=
  match bufSlice s 0 s.n with
  | .error f => .error f
  | .ok raw => .ok (clear (bumpSkip 1 (report k raw s)), raw.drop 1)

/-- `Encode(class, id, p)` (R160): the wire image with the checksum of its body. -/
def encodeFrame (c i : Byte) (p : List Byte) : List Byte :=
  wireBytes c i p (ckSeq (frameBody c i p)).1 (ckSeq (frameBody c i p)).2

/-- The outcome of an operation that ran to its end, or stopped at an access that does not exist. -/
def finish (r : Except Fault State) : Host.Outcome State Fault Refusal :=
  match r with
  | .ok s => .next s
  | .error f => .fault f

end Sys2Proof.Machine
end

