-- ==== Sys2Proof/Machine/Receive.lean ====
section
/-! DEFINITION. The receive path (`41_decoder.md`): the pseudocode of the twelve per-byte operations (R122 to R133),
`Step` (R121), `Drain` (R120) with the work bound of R135, and `RX`, `RX*`. -/

namespace Sys2Proof.Machine

/-- A `Step` that does not reject. -/
def noReplay (r : Except Fault State) : StepResult :=
  match r with
  | .ok s => .ok (s, [])
  | .error f => .error f

/-- `SKIP` (R122): the byte is garbage, counted and not stored. -/
def stepSkip (s : State) : StepResult := .ok (bumpSkip 1 s, [])

/-- `SYNC1` (R123). -/
def stepSync1 (s : State) : StepResult :=
  match bufAppend sync1Byte s with
  | .error f => .error f
  | .ok t => .ok (setPhase .hunt2 t, [])

/-- `SYNC2` (R124): the sync bytes are not accumulated. -/
def stepSync2 (s : State) : StepResult :=
  match bufAppend sync2Byte s with
  | .error f => .error f
  | .ok t => .ok (setPhase .cls t, [])

/-- `RESYNC1` (R125): the earlier `0xB5` is counted as skipped; this one takes its place in `BUF`. -/
def stepResync1 (s : State) : StepResult := .ok (bumpSkip 1 s, [])

/-- `DESYNC` (R126): neither the held `0xB5` nor this byte starts a frame. -/
def stepDesync (s : State) : StepResult := .ok (clear (bumpSkip 2 s), [])

/-- `CLS` (R127). -/
def stepCls (x : Byte) (s : State) : StepResult :=
  match bufAppend x s with
  | .error f => .error f
  | .ok t => .ok (setPhase .id (accumulate x (setCls x t)), [])

/-- `IDB` (R128). -/
def stepIdb (x : Byte) (s : State) : StepResult :=
  match bufAppend x s with
  | .error f => .error f
  | .ok t => .ok (setPhase .lenLo (accumulate x (setId x t)), [])

/-- `LENL` (R129): `LEN <- zext_16(x)`. -/
def stepLenl (x : Byte) (s : State) : StepResult :=
  match bufAppend x s with
  | .error f => .error f
  | .ok t => .ok (setPhase .lenHi (accumulate x (setLen (x.setWidth 16) t)), [])

/-- The length once its high byte `x` is in: `{x, LEN[7:0]}` (R130). -/
def fullLen (x : Byte) (l : Half) : Half := x ++ l.setWidth 8

/-- `LENH` (R130): the length is checked here, before any payload byte is awaited. -/
def stepLenh (x : Byte) (s : State) : StepResult :=
  match bufAppend x s with
  | .error f => .error f
  | .ok t =>
    let u := accumulate x (setLen (fullLen x s.len) t)
    if s.cfg.maxLen.toNat < u.len.toNat then raise .oversized u
    else if u.len = 0#16 then .ok (setPhase .ckA u, [])
    else .ok (setPhase .payload u, [])

/-- `PAYL` (R131): the payload ends when `N = 6 + LEN`, `N` already incremented. -/
def stepPayl (x : Byte) (s : State) : StepResult :=
  match bufAppend x s with
  | .error f => .error f
  | .ok t =>
    let u := accumulate x t
    if u.n = 6 + u.len.toNat then .ok (setPhase .ckA u, []) else .ok (u, [])

/-- `CKA` (R132): stored, neither accumulated nor compared. -/
def stepCka (x : Byte) (s : State) : StepResult :=
  match bufAppend x s with
  | .error f => .error f
  | .ok t => .ok (setPhase .ckB t, [])

/-- `CKB` (R133): both checksum bytes are compared, then `Accept()` or `raise ChecksumError`. -/
def stepCkb (x : Byte) (s : State) : StepResult :=
  match bufAppend x s with
  | .error f => .error f
  | .ok t =>
    match bufRead t (6 + t.len.toNat) with
    | .error f => .error f
    | .ok a => if a = t.ckA ∧ x = t.ckB then noReplay (accept t) else raise .checksumError t

/-- `Step(x)` (R121): the operation that the pair (`PHASE`, `x`) selects (R94), `PHASE` as it stands now. -/
def stepByte (x : Byte) (s : State) : StepResult :=
  match s.phase with
  | .hunt1 => if x = sync1Byte then stepSync1 s else stepSkip s
  | .hunt2 =>
    if x = sync2Byte then stepSync2 s else if x = sync1Byte then stepResync1 s else stepDesync s
  | .cls => stepCls x s
  | .id => stepIdb x s
  | .lenLo => stepLenl x s
  | .lenHi => stepLenh x s
  | .payload => stepPayl x s
  | .ckA => stepCka x s
  | .ckB => stepCkb x s

/-- `Drain(P)` (R120) for at most `fuel` `Step`s: the first pending byte goes through `Step`, and the bytes a reject
hands back are pending before the others (R195). -/
def drain : Nat → List Byte → State → Except Fault State
  | _, [], s => .ok s
  | 0, _ :: _, _ => .error .replayBound
  | fuel + 1, x :: p, s =>
    match stepByte x s with
    | .error f => .error f
    | .ok (t, replay) => drain fuel (replay ++ p) t

/-- The number of `Step`s that always suffices for `n` bytes held or pending (R135). -/
def workBound (n : Nat) : Nat := n * (n + 1) / 2

/-- `Drain(P)` (R120), with the bound of R135 as fuel. -/
def drainAll (p : List Byte) (s : State) : Except Fault State := drain (workBound (s.n + p.length)) p s

/-- `RX(b)` is `Drain([b])` (R120). -/
def rxByte (b : Byte) (s : State) : Except Fault State := drainAll [b] s

/-- `RX* b0 b1 ... bk` is `RX b0; RX b1; ...; RX bk` (R97). -/
def rxBytes : List Byte → State → Except Fault State
  | [], s => .ok s
  | b :: bs, s =>
    match rxByte b s with
    | .error f => .error f
    | .ok t => rxBytes bs t

/-- One `Step` as an operation of its own: the replay it asks for belongs to it (R9, R49). -/
def settle (r : StepResult) : Except Fault State :=
  match r with
  | .error f => .error f
  | .ok (t, replay) => drainAll replay t

end Sys2Proof.Machine
end

