-- ==== Sys2Proof/Machine/HostOps.lean ====
section
/-! DEFINITION. The meanings of the HOST and CMD rows (`43_host_ops.md` R170 to R174). -/

namespace Sys2Proof.Machine

/-- `FLUSH` (R172): the pending bytes are counted and gone. -/
def flushCandidate (s : State) : State := clear (bumpSkip s.n s)

/-- `ABORT` (R173): the candidate's first byte is dropped, the others are re-scanned; nothing if none is pending. -/
def abortCandidate (s : State) : Except Fault State :=
  if s.n = 0 then .ok s
  else
    match bufSlice s 1 s.n with
    | .error f => .error f
    | .ok p => drainAll p (clear (bumpSkip 1 (bumpAbort s)))

/-- A write of `v` to `CMD` (R171): `FLUSH` if bit 0 is set, then `ABORT` if bit 1 is; `v` is not stored. -/
def writeCmd (v : Word) (s : State) : Except Fault State :=
  let t := if v.getLsbD 0 then flushCandidate s else s
  if v.getLsbD 1 then abortCandidate t else .ok t

/-- `RD i` (R170): the value is returned and nothing else happens. -/
def execRd (i : Nat) (s : State) : Host.Outcome State Fault Refusal := .next (returnWord (hostReg s i) s)

/-- `WR i, v` (R171): only `CMD` (9) acts; every other write is ignored (R38, R47). -/
def execWr (i : Nat) (v : Word) (s : State) : Host.Outcome State Fault Refusal :=
  if i = 9 then finish (writeCmd v s) else .next s

/-- `FLUSH` (R172). -/
def execFlush (s : State) : Host.Outcome State Fault Refusal := .next (flushCandidate s)

/-- `ABORT` (R173). -/
def execAbort (s : State) : Host.Outcome State Fault Refusal := finish (abortCandidate s)

end Sys2Proof.Machine
end

