-- ==== Sys2Proof/Machine/Ports.lean ====
section
/-! DEFINITION. The meanings of the PORT rows: `ENCODE` (`42_encoder.md` R160, R161), `RX` (`41_decoder.md` R120) and
`RESET` (`70_reset_and_hazards.md` R220). -/

namespace Sys2Proof.Machine

/-- `ENCODE(class, id, p)` (R160): the frame's bytes are sent. A payload that the length field cannot express "is
refused: nothing is sent and nothing changes" (R161), and the block goes on. -/
def execEncode (c i : Byte) (p : List Byte) (s : State) : Host.Outcome State Fault Refusal :=
  if p.length ≤ maxPayload then .next (send (encodeFrame c i p) s) else .next s

/-- `RX(b)` (R120). -/
def execRx (b : Byte) (s : State) : Host.Outcome State Fault Refusal := finish (rxByte b s)

/-- `RESET` (R220): `Clear()` and the counters to 0; the output histories stay (R221). -/
def execReset (s : State) : Host.Outcome State Fault Refusal := .next (zeroCounters (clear s))

end Sys2Proof.Machine
end

