-- ==== Sys2Proof/Machine/RxByte.lean ====
section
/-! DEFINITION. The meanings of the RXBYTE rows. Each runs where the pair (`PHASE`, byte) selects it (R94), with the
replay its reject asks for (R9: "all work caused by an operation, including every replay of buffered bytes, is part of
that operation"). Where another row is selected the block does not perform it (log entry 7). -/

namespace Sys2Proof.Machine

/-- An operation that is the selected one runs; another one is refused (R94 "selects exactly one"). -/
def whenSelected (sel : Bool) (r : StepResult) : Host.Outcome State Fault Refusal :=
  if sel then finish (settle r) else .refused .notSelected

/-- `SKIP` (R122). -/
def execSkip (x : Byte) (s : State) : Host.Outcome State Fault Refusal :=
  whenSelected (decide (s.phase = .hunt1 ∧ x ≠ sync1Byte)) (stepSkip s)

/-- `SYNC1` (R123). -/
def execSync1 (s : State) : Host.Outcome State Fault Refusal :=
  whenSelected (decide (s.phase = .hunt1)) (stepSync1 s)

/-- `SYNC2` (R124). -/
def execSync2 (s : State) : Host.Outcome State Fault Refusal :=
  whenSelected (decide (s.phase = .hunt2)) (stepSync2 s)

/-- `RESYNC1` (R125). -/
def execResync1 (s : State) : Host.Outcome State Fault Refusal :=
  whenSelected (decide (s.phase = .hunt2)) (stepResync1 s)

/-- `DESYNC` (R126). -/
def execDesync (x : Byte) (s : State) : Host.Outcome State Fault Refusal :=
  whenSelected (decide (s.phase = .hunt2 ∧ x ≠ sync2Byte ∧ x ≠ sync1Byte)) (stepDesync s)

/-- `CLS` (R127). -/
def execCls (x : Byte) (s : State) : Host.Outcome State Fault Refusal :=
  whenSelected (decide (s.phase = .cls)) (stepCls x s)

/-- `IDB` (R128). -/
def execIdb (x : Byte) (s : State) : Host.Outcome State Fault Refusal :=
  whenSelected (decide (s.phase = .id)) (stepIdb x s)

/-- `LENL` (R129). -/
def execLenl (x : Byte) (s : State) : Host.Outcome State Fault Refusal :=
  whenSelected (decide (s.phase = .lenLo)) (stepLenl x s)

/-- `LENH` (R130). -/
def execLenh (x : Byte) (s : State) : Host.Outcome State Fault Refusal :=
  whenSelected (decide (s.phase = .lenHi)) (stepLenh x s)

/-- `PAYL` (R131). -/
def execPayl (x : Byte) (s : State) : Host.Outcome State Fault Refusal :=
  whenSelected (decide (s.phase = .payload)) (stepPayl x s)

/-- `CKA` (R132). -/
def execCka (x : Byte) (s : State) : Host.Outcome State Fault Refusal :=
  whenSelected (decide (s.phase = .ckA)) (stepCka x s)

/-- `CKB` (R133). -/
def execCkb (x : Byte) (s : State) : Host.Outcome State Fault Refusal :=
  whenSelected (decide (s.phase = .ckB)) (stepCkb x s)

end Sys2Proof.Machine
end

