-- ==== Sys2Proof/Machine/Wire.lean ====
section
/-! DEFINITION. The meanings of the WIRE rows (`30_encoding.md` R80, R89): a frame on the receive line is `RX*` of its
bytes (R97; log entry 8). The block treats an acknowledgement frame like any other (R82). -/

namespace Sys2Proof.Machine

/-- `FRAME` (R80): the frame's bytes arrive, first to last. -/
def execFrame (c i : Byte) (p : List Byte) (a b : Byte) (s : State) : Host.Outcome State Fault Refusal :=
  finish (rxBytes (wireBytes c i p a b) s)

/-- `ACK_ACK` (R89): class `0x05`, id `0x01`, payload the class and id of the acknowledged message. -/
def execAckAck (c i a b : Byte) (s : State) : Host.Outcome State Fault Refusal :=
  finish (rxBytes (wireBytes ackClass ackId [c, i] a b) s)

/-- `ACK_NAK` (R89): class `0x05`, id `0x00`, payload the class and id of the rejected message. -/
def execAckNak (c i a b : Byte) (s : State) : Host.Outcome State Fault Refusal :=
  finish (rxBytes (wireBytes ackClass nakId [c, i] a b) s)

end Sys2Proof.Machine
end

