-- ==== Sys2Proof/Machine/Dispatch.lean ====
section
/-! DEFINITION. One arm per operation of the table. -/

namespace Sys2Proof.Machine

def exec (i : Instr) (s : State) : Host.Outcome State Fault Refusal :=
  match i with
  | .skip x => Sys2Proof.Machine.execSkip x s
  | .sync1 => Sys2Proof.Machine.execSync1 s
  | .sync2 => Sys2Proof.Machine.execSync2 s
  | .resync1 => Sys2Proof.Machine.execResync1 s
  | .desync x => Sys2Proof.Machine.execDesync x s
  | .cls x => Sys2Proof.Machine.execCls x s
  | .idb x => Sys2Proof.Machine.execIdb x s
  | .lenl x => Sys2Proof.Machine.execLenl x s
  | .lenh x => Sys2Proof.Machine.execLenh x s
  | .payl x => Sys2Proof.Machine.execPayl x s
  | .cka x => Sys2Proof.Machine.execCka x s
  | .ckb x => Sys2Proof.Machine.execCkb x s
  | .frame c d p a b => Sys2Proof.Machine.execFrame c d p a b s
  | .ackAck c d a b => Sys2Proof.Machine.execAckAck c d a b s
  | .ackNak c d a b => Sys2Proof.Machine.execAckNak c d a b s
  | .rd r => Sys2Proof.Machine.execRd r s
  | .wr r v => Sys2Proof.Machine.execWr r v s
  | .flush => Sys2Proof.Machine.execFlush s
  | .abort => Sys2Proof.Machine.execAbort s
  | .encode c d p => Sys2Proof.Machine.execEncode c d p s
  | .rx b => Sys2Proof.Machine.execRx b s
  | .reset => Sys2Proof.Machine.execReset s

end Sys2Proof.Machine
end

