-- ==== Sys2Proof/Machine/Fetch.lean ====
section
/-! DEFINITION. How the next operation is taken from what is presented to the block: the tie-break of R9 among
operations presented at one instant, and the placing of a table word for `withFetchWord`. -/

namespace Sys2Proof.Machine

/-- The order of R9 for operations presented at once: `RESET`, `FLUSH`, `ABORT`, `RD`/`WR` of other registers, `RX`,
`ENCODE`. A `WR` of `CMD` counts as the command its bits request (R95); received bytes, whole frames among them, as
`RX`. -/
def priority : Instr → Nat
  | .reset => 0
  | .flush => 1
  | .wr i v => if i = 9 then (if v.getLsbD 0 then 1 else if v.getLsbD 1 then 2 else 3) else 3
  | .abort => 2
  | .rd _ => 3
  | .rx _ => 4
  | .skip _ => 4
  | .sync1 => 4
  | .sync2 => 4
  | .resync1 => 4
  | .desync _ => 4
  | .cls _ => 4
  | .idb _ => 4
  | .lenl _ => 4
  | .lenh _ => 4
  | .payl _ => 4
  | .cka _ => 4
  | .ckb _ => 4
  | .frame _ _ _ _ _ => 4
  | .ackAck _ _ _ _ => 4
  | .ackNak _ _ _ _ => 4
  | .encode _ _ _ => 5

/-- Ports whose bytes come from the receive line, where every byte is an `RX` (R9, R17). -/
def carriesReceived : Port → Bool
  | .rxByte => true
  | .wire => true
  | .rx => true
  | .hostRead => false
  | .hostWrite => false
  | .cmd => false
  | .encode => false
  | .reset => false

/-- A request that names no operation of the table (log entry 17). Received bytes that are not one frame, or not one
byte, are `RX*` of them all the same: "`RX` never refuses, faults or blocks" (R120). On a host or output port it is no
access at all, and nothing happens (R65, R208). -/
def applyUnnamed (r : Request) (s : State) : Host.Outcome State Fault Refusal :=
  if carriesReceived r.port then finish (rxBytes r.bytes s) else .next s

/-- The place of a request in the order of R9. One that names no operation has the place of `RX` if its bytes are
received ones, and else comes last (log entry 17). -/
def rank (ph : Phase) (r : Request) : Nat :=
  match decode ph r with
  | .ok i => priority i
  | .error _ => if carriesReceived r.port then 4 else 6

/-- The request applied first among those of one instant, and the others: the lowest rank, and the first listed among
equals. -/
def pickFirst (ph : Phase) : Instant → Option (Request × Instant)
  | [] => none
  | r :: rs =>
    match pickFirst ph rs with
    | none => some (r, [])
    | some (q, others) => if rank ph q < rank ph r then some (q, r :: others) else some (r, rs)

/-- The next request and the input that is left; `none` when nothing is presented. -/
def nextRequest (ph : Phase) : List Instant → Option (Request × List Instant)
  | [] => none
  | now :: later =>
    match pickFirst ph now with
    | none => nextRequest ph later
    | some (r, []) => some (r, later)
    | some (r, q :: others) => some (r, (q :: others) :: later)

/-- The request that the next step applies. -/
def fetchRequest (s : State) : Option Request := (nextRequest s.phase s.input).map Prod.fst

/-- The state with that request taken from the input. -/
def afterFetch (s : State) : State :=
  match nextRequest s.phase s.input with
  | none => s
  | some (_, left) => { s with input := left }

/-- The shortest candidate whose quiescent phase is `ph` (R31), with the least length that has the phase. -/
def prefixFor : Phase → List Byte
  | .hunt1 => []
  | .hunt2 => [sync1Byte]
  | .cls => [sync1Byte, sync2Byte]
  | .id => [sync1Byte, sync2Byte, 0#8]
  | .lenLo => [sync1Byte, sync2Byte, 0#8, 0#8]
  | .lenHi => [sync1Byte, sync2Byte, 0#8, 0#8, 0#8]
  | .payload => [sync1Byte, sync2Byte, 0#8, 0#8, 1#8, 0#8]
  | .ckA => [sync1Byte, sync2Byte, 0#8, 0#8, 0#8, 0#8]
  | .ckB => [sync1Byte, sync2Byte, 0#8, 0#8, 0#8, 0#8, 0#8]

/-- The state with a candidate pending whose phase is `ph`, unchanged where `PHASE` is `ph` already. The phase is what
a received byte's opcode takes from the state (R94), and it is a function of the pending candidate (R31). -/
def withPhase (ph : Phase) (s : State) : State :=
  if s.phase = ph then s
  else
    match rxBytes (prefixFor ph) (clear s) with
    | .ok t => t
    | .error _ => s

/-- The state with a request presented alone, before everything else in the input. -/
def present (r : Request) (s : State) : State := { s with input := [r] :: s.input }

end Sys2Proof.Machine
end

