-- ==== Sys2Proof/Machine/Step.lean ====
section
/-! DEFINITION. One step: the next presented operation is applied, completely (`00_scope.md` R9). With nothing
presented the block is idle and keeps all state (R207; R9 "no step of its own between operations"). -/

namespace Sys2Proof.Machine

/-- One operation, taken in the order of R9, decoded in the current phase (R94) and executed. No request stops the
machine (R208): one that names no operation of the table is `applyUnnamed`. -/
def step (s : State) : Host.Outcome State Fault Refusal :=
  match fetchRequest s with
  | none => .next s
  | some r =>
    match decode s.phase r with
    | .error _ => applyUnnamed r (afterFetch s)
    | .ok i => exec i (afterFetch s)

/-- The state in which the very next step runs the operation of a table word (log entry 3): its request presented
first, and, for a received byte whose row belongs to another phase, that phase. -/
def State.withFetchWord (s : State) (nbits w : Nat) : State :=
  match (tableRequest nbits w).port with
  | .rxByte => present (tableRequest nbits w) (withPhase (tablePhase nbits w) s)
  | _ => present (tableRequest nbits w) s

end Sys2Proof.Machine
end

