-- ==== Sys2Proof/Safety.lean ====
section
/-! DEFINITION. The terms in which claims speak: the consistency of a quiescent state (`10_state.md` R31, R32,
`20_memory.md` R62), a safe step, and the reference decoder `Scan` on a byte list (`41_decoder.md` R136). -/

namespace Sys2Proof.Machine

/-- `PHASE` as a function of `N` and `LEN` (R31). -/
def phaseOf (n len : Nat) : Phase :=
  match n with
  | 0 => .hunt1
  | 1 => .hunt2
  | 2 => .cls
  | 3 => .id
  | 4 => .lenLo
  | 5 => .lenHi
  | n => if n < 6 + len then .payload else if n = 6 + len then .ckA else .ckB

/-- What R31, R32 and R62 say of every quiescent state. -/
structure Consistent (s : State) : Prop where
  /-- `BUF` holds exactly the bytes `BUF[0 .. N)`, in canonical form (R61). -/
  cells : s.buf.map Prod.fst = List.range s.n
  /-- "The largest quiescent `N` is `7 + MAX_LEN`" (R62). -/
  bound : s.n ≤ 7 + s.cfg.maxLen.toNat
  /-- R31. -/
  phase : s.phase = phaseOf s.n s.len.toNat
  /-- "`N = 8 + LEN` is never quiescent" (R31). -/
  pending : 6 ≤ s.n → s.n ≤ 7 + s.len.toNat
  /-- "`LEN <= MAX_LEN` if `N >= 6`" (R32). -/
  lenBound : 6 ≤ s.n → s.len.toNat ≤ s.cfg.maxLen.toNat
  /-- "`BUF[0] = 0xB5` if `N >= 1`" (R32). -/
  sync1 : 1 ≤ s.n → bufByte s 0 = sync1Byte
  /-- "`BUF[1] = 0x62` if `N >= 2`" (R32). -/
  sync2 : 2 ≤ s.n → bufByte s 1 = sync2Byte
  /-- "`CLASS = BUF[2]` if `N >= 3`, else 0" (R32). -/
  cls : s.cls = if 3 ≤ s.n then bufByte s 2 else 0#8
  /-- "`ID = BUF[3]` if `N >= 4`, else 0" (R32). -/
  id : s.id = if 4 ≤ s.n then bufByte s 3 else 0#8
  /-- "`LEN = BUF[4]` if `N = 5`, `LEN = BUF[4] + 256 * BUF[5]` if `N >= 6`, else 0" (R32). -/
  len : s.len.toNat =
    if 6 ≤ s.n then frameLen (bufByte s 4) (bufByte s 5) else if s.n = 5 then (bufByte s 4).toNat else 0
  /-- The accumulators are `CkSeq` of the covered bytes received so far (R32). -/
  ck : (s.ckA, s.ckB) = ckSeq (bufRange s 2 (min s.n (6 + s.len.toNat)))

/-- `x` is stored at index `N`, `N` counts it, and every other location of `BUF` reads as before (R14 `Append`). -/
def AppendsByte (x : Byte) (s t : State) : Prop :=
  t.n = s.n + 1 ∧ bufByte t s.n = x ∧ ∀ a, a ≠ s.n → bufByte t a = bufByte s a

/-- The header registers are unchanged. -/
def SameHeader (s t : State) : Prop := t.cls = s.cls ∧ t.id = s.id ∧ t.len = s.len

/-- The accumulators are unchanged. -/
def SameAccumulators (s t : State) : Prop := t.ckA = s.ckA ∧ t.ckB = s.ckB

/-- The five counters are unchanged. -/
def SameCounters (s t : State) : Prop :=
  t.frameCnt = s.frameCnt ∧ t.ckerrCnt = s.ckerrCnt ∧ t.ovszCnt = s.ovszCnt ∧ t.skipCnt = s.skipCnt ∧
    t.abortCnt = s.abortCnt

/-- Nothing is put out: no event, no byte sent, no value returned. -/
def SameOutputs (s t : State) : Prop := t.evq = s.evq ∧ t.txq = s.txq ∧ t.rdq = s.rdq

/-- What is not the block's own state is unchanged: the presented input and the build-time parameters. -/
def SameOutside (s t : State) : Prop := t.input = s.input ∧ t.cfg = s.cfg

/-- The block performs the operation in this state: a per-byte operation where R94 selects it, any other operation
everywhere. -/
def Performs (i : Instr) (s : State) : Prop :=
  WellFormed i = true ∧ (rowPhase i = none ∨ rowPhase i = some s.phase)

/-- A step that does not fault. -/
def SafeStep (s : State) : Prop := ∀ f, step s ≠ .fault f

/-- What `Scan` answers (R136): the events in order, the number of bytes skipped, the remaining buffer. -/
structure ScanResult where
  events : List Event
  skipped : Nat
  rest : List Byte
  deriving DecidableEq, Repr

/-- One more event before those of a scan. -/
def ScanResult.report (e : Event) (r : ScanResult) : ScanResult := { r with events := e :: r.events }

/-- One more byte skipped. -/
def ScanResult.skip (r : ScanResult) : ScanResult := { r with skipped := r.skipped + 1 }

/-- A frame may start at the head: `buf[0] = 0xB5 and (|buf| = 1 or buf[1] = 0x62)` (R136). -/
def startsCandidate : List Byte → Bool
  | [] => false
  | [b] => b == sync1Byte
  | b :: c :: _ => b == sync1Byte && c == sync2Byte

/-- The loop of R136, each round of which removes at least one byte; `fuel` bounds the rounds. -/
def scanLoop (maxLen : Nat) : Nat → List Byte → ScanResult
  | 0, buf => { events := [], skipped := 0, rest := buf }
  | _ + 1, [] => { events := [], skipped := 0, rest := [] }
  | fuel + 1, b :: tail =>
    let buf := b :: tail
    if startsCandidate buf = false then (scanLoop maxLen fuel tail).skip
    else
      match buf with
      | _ :: _ :: c :: i :: l :: h :: more =>
        let len := frameLen l h
        if maxLen < len then
          ((scanLoop maxLen fuel tail).skip).report (.oversized c i (BitVec.ofNat 16 len))
        else
          match more.drop len with
          | x :: y :: after =>
            if ckSeq (c :: i :: l :: h :: more.take len) = (x, y) then
              (scanLoop maxLen fuel after).report (.frame c i (BitVec.ofNat 16 len) (more.take len))
            else ((scanLoop maxLen fuel tail).skip).report (.checksumError (buf.take (8 + len)))
          | _ => { events := [], skipped := 0, rest := buf }
      | _ => { events := [], skipped := 0, rest := buf }

/-- `Scan(buf)` (R136). -/
def scan (maxLen : Nat) (buf : List Byte) : ScanResult := scanLoop maxLen buf.length buf

/-- How many events of one kind code (R92) a list holds. -/
def countKind (k : BitVec 2) (es : List Event) : Nat := es.countP (fun e => eventKind e == k)

/-- The bytes of the accepted frames of a list of events: `8 + len` for each `Frame` (R138). -/
def frameBytes : List Event → Nat
  | [] => 0
  | .frame _ _ len _ :: es => 8 + len.toNat + frameBytes es
  | .checksumError _ :: es => frameBytes es
  | .oversized _ _ _ :: es => frameBytes es

end Sys2Proof.Machine
end

