-- ==== Sys2Proof/Certificates/Slice0/Obligations.lean ====
section
/-! DEFINITION. The statements for the provers, each a rule of the spec or one derived from them. -/

open Sys2Proof Sys2Proof.Machine

/-! ## Encodings -/

/-- Every well-formed operation is read back from its request, in every phase that selects it (R94, R80, R89, R95;
the request layouts are log entry 2). -/
def Obligations.DecodeOfEncodeIsIdentity : Prop :=
  ∀ (i : Instr) (ph : Phase), WellFormed i = true → (rowPhase i = none ∨ rowPhase i = some ph) →
    decode ph (encode i) = .ok i

/-- What the decoder reads is a well-formed operation of the current phase, and its request is the one read, but for
the command values, whose bits 31..2 are ignored (R45). For the HOST and PORT rows this is about the model's own request
layouts and its 32-bit register number (log entry 2, DESIGN CHOICE), not about an encoding of the spec. -/
def Obligations.DecodedOperationsAreWellFormed : Prop :=
  ∀ (ph : Phase) (r : Request) (i : Instr), decode ph r = .ok i →
    WellFormed i = true ∧ (rowPhase i = none ∨ rowPhase i = some ph) ∧ (r.port ≠ .cmd → encode i = r)

/-- R94: the pair (`PHASE`, byte) selects exactly one of the twelve per-byte operations, by the table. -/
def Obligations.PhaseAndByteSelectExactlyOneOperation : Prop :=
  ∀ (ph : Phase) (x : Byte),
    (rowPhase (select ph x) = some ph ∧ WellFormed (select ph x) = true ∧
      encode (select ph x) = { port := .rxByte, bytes := [x] }) ∧
    ∀ i : Instr, rowPhase i = some ph → WellFormed i = true →
      encode i = { port := .rxByte, bytes := [x] } → i = select ph x

/-- A few words: received bytes (R94) and the frames of V17, V18 and V19 of `95_test_vectors.md`, written out from the
spec's encodings; and values for `CMD` (R95), whose form as four bytes, least significant first, is the model's own (log
entry 2, DESIGN CHOICE). -/
def Obligations.WordsOfTheSpecDecode : Prop :=
  decode .hunt1 { port := .rxByte, bytes := [0xB5#8] } = .ok .sync1 ∧
  decode .hunt2 { port := .rxByte, bytes := [0x62#8] } = .ok .sync2 ∧
  decode .hunt2 { port := .rxByte, bytes := [0xB5#8] } = .ok .resync1 ∧
  decode .ckB { port := .rxByte, bytes := [0xC1#8] } = .ok (.ckb 0xC1#8) ∧
  decode .hunt1 { port := .wire, bytes := [0xB5#8, 0x62#8, 0x05#8, 0x01#8, 0x02#8, 0x00#8, 0x06#8, 0x8A#8, 0x98#8, 0xC1#8] } =
    .ok (.ackAck 0x06#8 0x8A#8 0x98#8 0xC1#8) ∧
  decode .hunt1 { port := .wire, bytes := [0xB5#8, 0x62#8, 0x05#8, 0x00#8, 0x02#8, 0x00#8, 0x06#8, 0x8A#8, 0x97#8, 0xBC#8] } =
    .ok (.ackNak 0x06#8 0x8A#8 0x97#8 0xBC#8) ∧
  decode .hunt1 { port := .wire, bytes := [0xB5#8, 0x62#8, 0x0A#8, 0x04#8, 0x00#8, 0x00#8, 0x0E#8, 0x34#8] } =
    .ok (.frame 0x0A#8 0x04#8 [] 0x0E#8 0x34#8) ∧
  decode .hunt1 { port := .cmd, bytes := [0x03#8, 0x00#8, 0x00#8, 0x00#8] } = .ok .flush ∧
  decode .hunt1 { port := .cmd, bytes := [0xFC#8, 0xFF#8, 0xFF#8, 0xFF#8] } = .ok (.wr 9 0xFFFFFFFC#32)

/-! ## The checksum -/

/-- R114, both components of the closed form. -/
def Obligations.ChecksumClosedForm : Prop :=
  ∀ s : List Byte,
    (ckSeq s).1.toNat = (s.map BitVec.toNat).sum % 256 ∧
    (ckSeq s).2.toNat = (s.zipIdx.map (fun xi => (s.length - xi.2) * xi.1.toNat)).sum % 256

/-- R115: two sequences of one length that differ in exactly one position differ in the first accumulator. -/
def Obligations.ChecksumSeesEverySingleByteChange : Prop :=
  ∀ (before after : List Byte) (x y : Byte), x ≠ y →
    (ckSeq (before ++ x :: after)).1 ≠ (ckSeq (before ++ y :: after)).1

/-- R116: a trailing zero byte adds `a` to `b`; leading zeros change nothing. -/
def Obligations.ZeroBytesInTheChecksum : Prop :=
  ∀ (s : List Byte) (n : Nat),
    ckSeq (s ++ [0#8]) = ((ckSeq s).1, (ckSeq s).2 + (ckSeq s).1) ∧
    ckSeq (List.replicate n 0#8 ++ s) = ckSeq s

/-- R36 and R12: `Bump(C, k)` adds `k` and stays at `2^32 - 1`. -/
def Obligations.BumpSaturates : Prop :=
  ∀ (c : Word) (k : Nat), (satAdd c k).toNat = min (c.toNat + k) 4294967295

/-! ## The twelve per-byte operations: what each leaves, and its frame -/

/-- R122. -/
def Obligations.SkipCountsOneByteAndChangesNothingElse : Prop :=
  ∀ (x : Byte) (s : State), s.phase = .hunt1 → x ≠ 0xB5#8 →
    exec (.skip x) s = .next { s with skipCnt := satAdd s.skipCnt 1 }

/-- R123. -/
def Obligations.Sync1OpensACandidate : Prop :=
  ∀ s : State, s.phase = .hunt1 → s.n < 8 + s.cfg.maxLen.toNat →
    ∃ t, exec .sync1 s = .next t ∧ t.phase = .hunt2 ∧ AppendsByte 0xB5#8 s t ∧
      (Consistent s → bufBytes t = [0xB5#8] ∧ t.n = 1) ∧
      SameHeader s t ∧ SameAccumulators s t ∧ SameCounters s t ∧ SameOutputs s t ∧ SameOutside s t

/-- R124. -/
def Obligations.Sync2CompletesTheMarker : Prop :=
  ∀ s : State, s.phase = .hunt2 → s.n < 8 + s.cfg.maxLen.toNat →
    ∃ t, exec .sync2 s = .next t ∧ t.phase = .cls ∧ AppendsByte 0x62#8 s t ∧
      (Consistent s → bufBytes t = [0xB5#8, 0x62#8] ∧ t.n = 2 ∧ t.ckA = 0#8 ∧ t.ckB = 0#8) ∧
      SameHeader s t ∧ SameAccumulators s t ∧ SameCounters s t ∧ SameOutputs s t ∧ SameOutside s t

/-- R125. -/
def Obligations.Resync1CountsTheEarlierByte : Prop :=
  ∀ s : State, s.phase = .hunt2 →
    exec .resync1 s = .next { s with skipCnt := satAdd s.skipCnt 1 } ∧
      (Consistent s → bufBytes s = [0xB5#8] ∧ s.n = 1)

/-- R126. -/
def Obligations.DesyncDropsBothBytes : Prop :=
  ∀ (x : Byte) (s : State), s.phase = .hunt2 → x ≠ 0x62#8 → x ≠ 0xB5#8 →
    exec (.desync x) s = .next { s with
      skipCnt := satAdd s.skipCnt 2, phase := .hunt1, n := 0, cls := 0#8, id := 0#8, len := 0#16, ckA := 0#8,
      ckB := 0#8, buf := [] }

/-- R127. -/
def Obligations.ClsStoresTheClass : Prop :=
  ∀ (x : Byte) (s : State), s.phase = .cls → s.n < 8 + s.cfg.maxLen.toNat →
    ∃ t, exec (.cls x) s = .next t ∧ t.phase = .id ∧ t.cls = x ∧ t.ckA = s.ckA + x ∧ t.ckB = s.ckB + (s.ckA + x) ∧
      AppendsByte x s t ∧ (Consistent s → s.n = 2 ∧ t.ckA = x ∧ t.ckB = x) ∧
      t.id = s.id ∧ t.len = s.len ∧ SameCounters s t ∧ SameOutputs s t ∧ SameOutside s t

/-- R128. -/
def Obligations.IdbStoresTheId : Prop :=
  ∀ (x : Byte) (s : State), s.phase = .id → s.n < 8 + s.cfg.maxLen.toNat →
    ∃ t, exec (.idb x) s = .next t ∧ t.phase = .lenLo ∧ t.id = x ∧ t.ckA = s.ckA + x ∧
      t.ckB = s.ckB + (s.ckA + x) ∧ AppendsByte x s t ∧ (Consistent s → s.n = 3) ∧
      t.cls = s.cls ∧ t.len = s.len ∧ SameCounters s t ∧ SameOutputs s t ∧ SameOutside s t

/-- R129: the low byte is set, the high byte zero, and nothing is compared with `MAX_LEN`. -/
def Obligations.LenlStoresTheLowByte : Prop :=
  ∀ (x : Byte) (s : State), s.phase = .lenLo → s.n < 8 + s.cfg.maxLen.toNat →
    ∃ t, exec (.lenl x) s = .next t ∧ t.phase = .lenHi ∧ t.len.toNat = x.toNat ∧ t.ckA = s.ckA + x ∧
      t.ckB = s.ckB + (s.ckA + x) ∧ AppendsByte x s t ∧ (Consistent s → s.n = 4) ∧
      t.cls = s.cls ∧ t.id = s.id ∧ SameCounters s t ∧ SameOutputs s t ∧ SameOutside s t

/-- R130, a length up to `MAX_LEN`, `MAX_LEN` itself included: to the payload, or straight to the checksum when there
is none. -/
def Obligations.LenhAcceptsLengthsUpToMaxLen : Prop :=
  ∀ (x : Byte) (s : State), s.phase = .lenHi → s.n < 8 + s.cfg.maxLen.toNat →
    s.len.toNat % 256 + 256 * x.toNat ≤ s.cfg.maxLen.toNat →
    ∃ t, exec (.lenh x) s = .next t ∧ t.len.toNat = s.len.toNat % 256 + 256 * x.toNat ∧
      t.phase = (if s.len.toNat % 256 + 256 * x.toNat = 0 then .ckA else .payload) ∧
      t.ckA = s.ckA + x ∧ t.ckB = s.ckB + (s.ckA + x) ∧ AppendsByte x s t ∧
      (Consistent s → t.n = 6 ∧ t.len.toNat = (bufByte t 4).toNat + 256 * (bufByte t 5).toNat) ∧
      t.cls = s.cls ∧ t.id = s.id ∧ SameCounters s t ∧ SameOutputs s t ∧ SameOutside s t

/-- R130, R192, R195, a length above `MAX_LEN`: the event, the counters, `Clear()`, and the five other bytes of the
candidate re-scanned from `HUNT1`. -/
def Obligations.LenhRejectsOversized : Prop :=
  ∀ (x : Byte) (s : State), s.phase = .lenHi → s.n < 8 + s.cfg.maxLen.toNat →
    s.cfg.maxLen.toNat < s.len.toNat % 256 + 256 * x.toNat →
    exec (.lenh x) s = finish (drainAll ((bufBytes s ++ [x]).drop 1) { s with
      evq := s.evq ++ [.oversized s.cls s.id (BitVec.ofNat 16 (s.len.toNat % 256 + 256 * x.toNat))],
      ovszCnt := satAdd s.ovszCnt 1, skipCnt := satAdd s.skipCnt 1,
      phase := .hunt1, n := 0, cls := 0#8, id := 0#8, len := 0#16, ckA := 0#8, ckB := 0#8, buf := [] })

/-- An oversized candidate, with its replay to the end: exactly one event, and of the six bytes each is counted as
skipped or still held (V46, V47; R195, R138). -/
def Obligations.OversizedReplayHoldsOrSkipsEveryByte : Prop :=
  ∀ (x : Byte) (s : State), Consistent s → s.phase = .lenHi →
    s.cfg.maxLen.toNat < s.len.toNat % 256 + 256 * x.toNat →
    ∃ t, exec (.lenh x) s = .next t ∧ Consistent t ∧ t.n ≤ 4 ∧
      t.evq = s.evq ++ [.oversized s.cls s.id (BitVec.ofNat 16 (s.len.toNat % 256 + 256 * x.toNat))] ∧
      t.skipCnt = satAdd s.skipCnt (6 - t.n) ∧ t.ovszCnt = satAdd s.ovszCnt 1 ∧
      t.frameCnt = s.frameCnt ∧ t.ckerrCnt = s.ckerrCnt ∧ t.abortCnt = s.abortCnt ∧
      t.txq = s.txq ∧ t.rdq = s.rdq ∧ SameOutside s t

/-- R131. -/
def Obligations.PaylStoresAPayloadByte : Prop :=
  ∀ (x : Byte) (s : State), s.phase = .payload → s.n < 8 + s.cfg.maxLen.toNat →
    ∃ t, exec (.payl x) s = .next t ∧
      t.phase = (if s.n + 1 = 6 + s.len.toNat then .ckA else .payload) ∧
      t.ckA = s.ckA + x ∧ t.ckB = s.ckB + (s.ckA + x) ∧ AppendsByte x s t ∧
      (Consistent s → 6 ≤ s.n ∧ s.n < 6 + s.len.toNat) ∧
      SameHeader s t ∧ SameCounters s t ∧ SameOutputs s t ∧ SameOutside s t

/-- R132: the byte is stored, neither accumulated nor compared. -/
def Obligations.CkaStoresTheFirstChecksumByte : Prop :=
  ∀ (x : Byte) (s : State), s.phase = .ckA → s.n < 8 + s.cfg.maxLen.toNat →
    ∃ t, exec (.cka x) s = .next t ∧ t.phase = .ckB ∧ AppendsByte x s t ∧
      (Consistent s → s.n = 6 + s.len.toNat) ∧
      SameHeader s t ∧ SameAccumulators s t ∧ SameCounters s t ∧ SameOutputs s t ∧ SameOutside s t

/-- R133 and R134, both checksum bytes match: the `Frame` event, `FRAME_CNT`, `Clear()`, nothing skipped. -/
def Obligations.CkbAcceptsAMatchingChecksum : Prop :=
  ∀ (x : Byte) (s : State), Consistent s → s.phase = .ckB →
    bufByte s (6 + s.len.toNat) = s.ckA → x = s.ckB →
    exec (.ckb x) s = .next { s with
      evq := s.evq ++ [.frame s.cls s.id s.len (bufRange s 6 (6 + s.len.toNat))],
      frameCnt := satAdd s.frameCnt 1,
      phase := .hunt1, n := 0, cls := 0#8, id := 0#8, len := 0#16, ckA := 0#8, ckB := 0#8, buf := [] }

/-- R133, R193 and R195, a mismatch in either byte: the whole candidate in the event, the counters, `Clear()`, and
every byte but the first re-scanned from `HUNT1`; and the operation completes. -/
def Obligations.CkbRejectsAMismatch : Prop :=
  ∀ (x : Byte) (s : State), Consistent s → s.phase = .ckB →
    ¬(bufByte s (6 + s.len.toNat) = s.ckA ∧ x = s.ckB) →
    (bufBytes s ++ [x]).length = 8 + s.len.toNat ∧
    exec (.ckb x) s = finish (drainAll (bufRange s 1 s.n ++ [x]) { s with
      evq := s.evq ++ [.checksumError (bufBytes s ++ [x])],
      ckerrCnt := satAdd s.ckerrCnt 1, skipCnt := satAdd s.skipCnt 1,
      phase := .hunt1, n := 0, cls := 0#8, id := 0#8, len := 0#16, ckA := 0#8, ckB := 0#8, buf := [] }) ∧
    ∃ t, exec (.ckb x) s = .next t ∧ s.evq ++ [.checksumError (bufBytes s ++ [x])] <+: t.evq

/-- A per-byte operation in a phase that selects another is not performed: the model refuses it by name (log entry 7,
the model's choice; R94 "selects exactly one of twelve operations"). -/
def Obligations.UnselectedOperationsAreRefused : Prop :=
  ∀ (i : Instr) (ph : Phase) (s : State), rowPhase i = some ph → ph ≠ s.phase →
    exec i s = .refused .notSelected

/-! ## RX, the wire, and the receive path as a whole -/

/-- R120 with R121: `RX(b)` is the operation that the pair (`PHASE`, `b`) selects, with its replay. -/
def Obligations.RxPerformsTheSelectedOperation : Prop :=
  ∀ (b : Byte) (s : State), exec (.rx b) s = exec (select s.phase b) s

/-- R120: the equations of `Drain`, and `RX(b)` is `Drain([b])`; from a consistent state it completes. -/
def Obligations.RxIsDrainOfOneByte : Prop :=
  ∀ (b : Byte) (s : State),
    exec (.rx b) s = finish (drainAll [b] s) ∧ drainAll [] s = .ok s ∧
    (∀ (x : Byte) (p : List Byte), drainAll (x :: p) s =
      match stepByte x s with
      | .error f => .error f
      | .ok (t, replay) => drainAll (replay ++ p) t) ∧
    (Consistent s → ∃ t, exec (.rx b) s = .next t)

/-- R135: in every state and for every pending list, `n (n + 1) / 2` `Step`s are enough, `n` the bytes held and
pending. -/
def Obligations.ReplayEndsWithinTheWorkBound : Prop :=
  ∀ (p : List Byte) (s : State),
    drain ((s.n + p.length) * (s.n + p.length + 1) / 2) p s ≠ .error .replayBound

/-- R72: bytes delivered one by one, or as one pending list, give the same. -/
def Obligations.ChunkingIsInvisible : Prop :=
  ∀ (p q : List Byte) (s : State),
    rxBytes (p ++ q) s = drainAll (p ++ q) s ∧
    (∀ t, rxBytes p s = .ok t → rxBytes (p ++ q) s = rxBytes q t)

/-- R136: the receive path is `Scan`. From a consistent state with buffer `B`, after `RX*` of `bs`, the buffer, the
events and the counters are those of `Scan(B ++ bs)`, saturation included. -/
def Obligations.ReceivePathIsScan : Prop :=
  ∀ (bs : List Byte) (s : State), Consistent s →
    ∃ t, rxBytes bs s = .ok t ∧ Consistent t ∧
      bufBytes t = (scan s.cfg.maxLen.toNat (bufBytes s ++ bs)).rest ∧
      t.evq = s.evq ++ (scan s.cfg.maxLen.toNat (bufBytes s ++ bs)).events ∧
      t.skipCnt = satAdd s.skipCnt (scan s.cfg.maxLen.toNat (bufBytes s ++ bs)).skipped ∧
      t.frameCnt = satAdd s.frameCnt (countKind 1#2 (scan s.cfg.maxLen.toNat (bufBytes s ++ bs)).events) ∧
      t.ckerrCnt = satAdd s.ckerrCnt (countKind 2#2 (scan s.cfg.maxLen.toNat (bufBytes s ++ bs)).events) ∧
      t.ovszCnt = satAdd s.ovszCnt (countKind 3#2 (scan s.cfg.maxLen.toNat (bufBytes s ++ bs)).events)

/-- R137: dropping one byte of a rejected candidate or two comes to the same, since its second byte is `0x62`. -/
def Obligations.DroppingOneByteOrTwoIsTheSame : Prop :=
  ∀ (p : List Byte) (s : State), s.phase = .hunt1 →
    drainAll (0x62#8 :: p) s = drainAll p { s with skipCnt := satAdd s.skipCnt 1 }

/-- R138: every byte received is in an accepted frame, counted as skipped, or still held, as long as `SKIP_CNT` has
not saturated. -/
def Obligations.EveryReceivedByteIsAccountedFor : Prop :=
  ∀ (bs : List Byte) (s t : State), Consistent s → rxBytes bs s = .ok t → t.skipCnt.toNat < 4294967295 →
    bs.length + frameBytes s.evq + s.skipCnt.toNat + s.n = frameBytes t.evq + t.skipCnt.toNat + t.n

/-- R138, second half: `FLUSH` and `ABORT` keep the law. -/
def Obligations.FlushAndAbortKeepTheByteAccount : Prop :=
  ∀ (i : Instr) (s t : State), (i = .flush ∨ i = .abort) → Consistent s → exec i s = .next t →
    t.skipCnt.toNat < 4294967295 →
    frameBytes s.evq + s.skipCnt.toNat + s.n = frameBytes t.evq + t.skipCnt.toNat + t.n

/-- R139, `|p| <= MAX_LEN`: from any consistent state with `N = 0`, the encoded frame is received as exactly one
`Frame` event, and nothing else changes. It is the completion of `FRAME`, `ACK_ACK` and `ACK_NAK` as well. -/
def Obligations.RoundTripOfEncodedFrames : Prop :=
  ∀ (c i : Byte) (p : List Byte) (s : State), Consistent s → s.n = 0 → p.length ≤ s.cfg.maxLen.toNat →
    rxBytes (encodeFrame c i p) s = .ok { s with
      evq := s.evq ++ [.frame c i (BitVec.ofNat 16 p.length) p], frameCnt := satAdd s.frameCnt 1 }

/-- The WIRE row `FRAME` (R80, R97): a frame with its right checksum arrives and is accepted; with `L > MAX_LEN` the
first event is `Oversized` instead (R139). -/
def Obligations.FrameIsReceived : Prop :=
  ∀ (c i : Byte) (p : List Byte) (s : State), Consistent s → s.n = 0 → p.length ≤ 65535 →
    (p.length ≤ s.cfg.maxLen.toNat →
      exec (.frame c i p (ckSeq (frameBody c i p)).1 (ckSeq (frameBody c i p)).2) s = .next { s with
        evq := s.evq ++ [.frame c i (BitVec.ofNat 16 p.length) p], frameCnt := satAdd s.frameCnt 1 }) ∧
    (s.cfg.maxLen.toNat < p.length →
      ∃ t, exec (.frame c i p (ckSeq (frameBody c i p)).1 (ckSeq (frameBody c i p)).2) s = .next t ∧
        s.evq ++ [.oversized c i (BitVec.ofNat 16 p.length)] <+: t.evq)

/-- The WIRE rows `ACK_ACK` and `ACK_NAK` (R89, R82): received like any other frame, class `05`, id `01` or `00`,
payload the class and id of the other message. -/
def Obligations.AcknowledgementsAreReceived : Prop :=
  ∀ (c i : Byte) (s : State), Consistent s → s.n = 0 → 2 ≤ s.cfg.maxLen.toNat →
    exec (.ackAck c i (ckSeq [0x05#8, 0x01#8, 0x02#8, 0x00#8, c, i]).1 (ckSeq [0x05#8, 0x01#8, 0x02#8, 0x00#8, c, i]).2) s =
      .next { s with evq := s.evq ++ [.frame 0x05#8 0x01#8 2#16 [c, i]], frameCnt := satAdd s.frameCnt 1 } ∧
    exec (.ackNak c i (ckSeq [0x05#8, 0x00#8, 0x02#8, 0x00#8, c, i]).1 (ckSeq [0x05#8, 0x00#8, 0x02#8, 0x00#8, c, i]).2) s =
      .next { s with evq := s.evq ++ [.frame 0x05#8 0x00#8 2#16 [c, i]], frameCnt := satAdd s.frameCnt 1 }

/-- A frame on the wire is `RX` of each of its bytes in order (R97), and an acknowledgement frame is the frame of class
`05` it is an image of (R89). -/
def Obligations.WireOperationsAreRxOfEachByte : Prop :=
  ∀ (c i a b : Byte) (p : List Byte) (s : State),
    exec (.frame c i p a b) s = finish (drainAll (wireBytes c i p a b) s) ∧
    exec (.ackAck c i a b) s = exec (.frame 0x05#8 0x01#8 [c, i] a b) s ∧
    exec (.ackNak c i a b) s = exec (.frame 0x05#8 0x00#8 [c, i] a b) s

/-- R140 (b): a frame with one wrong byte among class, id, payload and checksum is reported as `ChecksumError` with
the bytes as received, first of all events. -/
def Obligations.SingleByteCorruptionIsReported : Prop :=
  ∀ (c i : Byte) (p : List Byte) (k : Nat) (v : Byte) (s : State),
    Consistent s → s.n = 0 → p.length ≤ s.cfg.maxLen.toNat →
    (k = 2 ∨ k = 3 ∨ (6 ≤ k ∧ k ≤ 7 + p.length)) → (encodeFrame c i p)[k]? ≠ some v →
    ∃ t, rxBytes ((encodeFrame c i p).set k v) s = .ok t ∧
      s.evq ++ [.checksumError ((encodeFrame c i p).set k v)] <+: t.evq

/-- R141, garbage without an adjacent `B5 62`: exactly one event, the frame, and `SKIP_CNT` grows by the garbage. -/
def Obligations.ResynchronisationOverGarbage : Prop :=
  ∀ (g : List Byte) (c i : Byte) (p : List Byte) (s : State),
    Consistent s → s.n = 0 → p.length ≤ s.cfg.maxLen.toNat → ¬ [0xB5#8, 0x62#8] <:+: g →
    rxBytes (g ++ encodeFrame c i p) s = .ok { s with
      skipCnt := satAdd s.skipCnt g.length,
      evq := s.evq ++ [.frame c i (BitVec.ofNat 16 p.length) p], frameCnt := satAdd s.frameCnt 1 }

/-! ## Host operations -/

/-- R170 with R39 to R47 (`LEVEL` for `N` in its range `0 .. CAP` of R22): every register's value, and nothing changes but the returned value (log entry 5). -/
def Obligations.RdReturnsTheRegister : Prop :=
  ∀ (i : Nat) (s : State),
    (∃ w, exec (.rd i) s = .next { s with rdq := s.rdq ++ [w] } ∧
      (i = 0 → w.toNat = phaseCode s.phase + 16 * (if 0 < s.n then 1 else 0) + 32 * (if 6 ≤ s.n then 1 else 0)) ∧
      (i = 1 → s.n ≤ 8 + s.cfg.maxLen.toNat → w.toNat = s.n) ∧
      (i = 2 → w.toNat = s.cls.toNat + 256 * s.id.toNat + 65536 * s.len.toNat) ∧
      (i = 3 → w.toNat = s.ckA.toNat + 256 * s.ckB.toNat) ∧
      (i = 4 → w = s.frameCnt) ∧ (i = 5 → w = s.ckerrCnt) ∧ (i = 6 → w = s.ovszCnt) ∧ (i = 7 → w = s.skipCnt) ∧
      (i = 8 → w = s.abortCnt) ∧ (i = 9 → w = 0#32) ∧ (i = 10 → w.toNat = s.cfg.maxLen.toNat) ∧
      (10 < i → w = 0#32))

/-- R171: only `CMD` acts; bit 0 is `FLUSH`, then bit 1 `ABORT` on what that leaves; the other bits are ignored; every
other register number ignores the write. -/
def Obligations.WrActsOnlyOnCmd : Prop :=
  ∀ (i : Nat) (v : Word) (s : State),
    (i ≠ 9 → exec (.wr i v) s = .next s) ∧
    (v.getLsbD 0 = false → v.getLsbD 1 = false → exec (.wr 9 v) s = .next s) ∧
    (v.getLsbD 0 = true → v.getLsbD 1 = false → exec (.wr 9 v) s = exec .flush s) ∧
    (v.getLsbD 0 = false → v.getLsbD 1 = true → exec (.wr 9 v) s = exec .abort s) ∧
    (v.getLsbD 0 = true → v.getLsbD 1 = true → ∃ t, exec .flush s = .next t ∧ exec (.wr 9 v) s = exec .abort t)

/-- R174: with both bits the effect is `FLUSH` alone, whatever the other bits. -/
def Obligations.BothCommandBitsAreFlushAlone : Prop :=
  ∀ (v : Word) (s : State), v.getLsbD 0 = true → v.getLsbD 1 = true → exec (.wr 9 v) s = exec .flush s

/-- R172. -/
def Obligations.FlushDiscardsTheCandidate : Prop :=
  ∀ s : State,
    exec .flush s = .next { s with
      skipCnt := satAdd s.skipCnt s.n, phase := .hunt1, n := 0, cls := 0#8, id := 0#8, len := 0#16, ckA := 0#8,
      ckB := 0#8, buf := [] } ∧
    (Consistent s → s.n = 0 → exec .flush s = .next s)

/-- R173: nothing with `N = 0`; else both counters, `Clear()` and the replay of `BUF[1 .. N)`, and it completes. -/
def Obligations.AbortRescansAllButTheFirstByte : Prop :=
  ∀ s : State,
    (s.n = 0 → exec .abort s = .next s) ∧
    (0 < s.n → s.n ≤ 8 + s.cfg.maxLen.toNat →
      exec .abort s = finish (drainAll (bufRange s 1 s.n) { s with
        abortCnt := satAdd s.abortCnt 1, skipCnt := satAdd s.skipCnt 1,
        phase := .hunt1, n := 0, cls := 0#8, id := 0#8, len := 0#16, ckA := 0#8, ckB := 0#8, buf := [] })) ∧
    (Consistent s → ∃ t, exec .abort s = .next t ∧ t.abortCnt = satAdd s.abortCnt (if s.n = 0 then 0 else 1))

/-- R173 "One `ABORT` removes one false start": the candidate left pending is shorter than the one given up. -/
def Obligations.AbortShortensTheCandidate : Prop :=
  ∀ s t : State, 0 < s.n → exec .abort s = .next t → t.n < s.n

/-! ## ENCODE and RESET -/

/-- R160 and R161: the frame's bytes are appended to `TXQ` and nothing else changes; a payload over 65535 bytes is
refused with no effect; `MAX_LEN` plays no part. -/
def Obligations.EncodeSendsTheFrame : Prop :=
  ∀ (c i : Byte) (p : List Byte) (s : State),
    (p.length ≤ 65535 → exec (.encode c i p) s = .next { s with
      txq := s.txq ++ ([0xB5#8, 0x62#8] ++
        [c, i, BitVec.ofNat 8 (p.length % 256), BitVec.ofNat 8 (p.length / 256)] ++ p ++
        [(ckSeq ([c, i, BitVec.ofNat 8 (p.length % 256), BitVec.ofNat 8 (p.length / 256)] ++ p)).1,
         (ckSeq ([c, i, BitVec.ofNat 8 (p.length % 256), BitVec.ofNat 8 (p.length / 256)] ++ p)).2]) }) ∧
    (65535 < p.length → exec (.encode c i p) s = .next s)

/-- R220 and R221: what `RESET` leaves, in every state, the output histories kept. -/
def Obligations.ResetLeavesTheHuntingState : Prop :=
  ∀ s : State,
    exec .reset s = .next { s with
      phase := .hunt1, n := 0, cls := 0#8, id := 0#8, len := 0#16, ckA := 0#8, ckB := 0#8, buf := [],
      frameCnt := 0#32, ckerrCnt := 0#32, ovszCnt := 0#32, skipCnt := 0#32, abortCnt := 0#32 }

/-- R50, R38: the state right after reset as the host reads it, `x[0]` to `x[9]` zero and `x[10]` = `MAX_LEN`, here
256, the default of R8. -/
def Obligations.ResetStateAsTheHostReadsIt : Prop :=
  (∀ i : Nat, i ≤ 9 → hostReg State.reset i = 0#32) ∧ hostReg State.reset 10 = 256#32 ∧
    State.reset.phase = .hunt1 ∧ bufBytes State.reset = [] ∧ State.reset.evq = [] ∧ State.reset.txq = []

/-! ## Invariants and whole-machine rules -/

/-- The state right after reset is consistent (R31, R32, R62 hold in it). -/
def Obligations.ResetIsConsistent : Prop := Consistent State.reset

/-- R31, R32 and the bound of R62 hold in every quiescent state: every step keeps them, whatever is presented. -/
def Obligations.StepKeepsConsistency : Prop :=
  ∀ s t : State, Consistent s → step s = .next t → Consistent t

/-- R208, and R62 "at every point of every operation": from a consistent state no step reaches past the buffer or past
the work bound, and every step answers a next state, whatever is presented: nothing stops the block (a request that
names no operation is log entry 17). -/
def Obligations.StepNeverFaultsFromConsistentState : Prop :=
  ∀ s : State, Consistent s → SafeStep s ∧ ∃ t, step s = .next t

/-- R208: in a consistent state every operation that the block performs completes. -/
def Obligations.EveryOperationCompletes : Prop :=
  ∀ (i : Instr) (s : State), Consistent s → Performs i s → ∃ t, exec i s = .next t

/-- Every operation keeps the buffer's canonical form, in every state. -/
def Obligations.OperationsKeepTheCanonicalBuffer : Prop :=
  ∀ (i : Instr) (s t : State), Memory.wf s.buf → exec i s = .next t → Memory.wf t.buf

/-- R221 and R35: `RESET` is the only operation that lowers a counter. -/
def Obligations.OnlyResetLowersACounter : Prop :=
  ∀ (i : Instr) (s t : State), i ≠ .reset → exec i s = .next t →
    s.frameCnt.toNat ≤ t.frameCnt.toNat ∧ s.ckerrCnt.toNat ≤ t.ckerrCnt.toNat ∧ s.ovszCnt.toNat ≤ t.ovszCnt.toNat ∧
      s.skipCnt.toNat ≤ t.skipCnt.toNat ∧ s.abortCnt.toNat ≤ t.abortCnt.toNat

/-- R48: `EVQ` and `TXQ` are append-only, for every operation, `RESET` included; so is the model's history of returned
values. -/
def Obligations.OutputHistoriesOnlyGrow : Prop :=
  ∀ (i : Instr) (s t : State), exec i s = .next t → s.evq <+: t.evq ∧ s.txq <+: t.txq ∧ s.rdq <+: t.rdq

/-- R30, R35, R162: what the operations of the receive path and `ABORT` never touch: the transmit stream, the returned
values, the input, the parameters; and all but `ABORT` (and `WR` of `CMD`) leave `ABORT_CNT` alone. -/
def Obligations.ReceiveOperationsFrame : Prop :=
  ∀ (i : Instr) (s t : State), (∀ c d p, i ≠ .encode c d p) → (∀ r, i ≠ .rd r) → i ≠ .reset → exec i s = .next t →
    t.txq = s.txq ∧ t.rdq = s.rdq ∧ t.input = s.input ∧ t.cfg = s.cfg ∧
      (i ≠ .abort → (∀ v, i ≠ .wr 9 v) → t.abortCnt = s.abortCnt)

/-- R190 and R35: the counters of accepted and rejected candidates count the events of each kind that an operation
emits, saturating; `RESET` apart. -/
def Obligations.CountersCountEvents : Prop :=
  ∀ (i : Instr) (s t : State), i ≠ .reset → exec i s = .next t →
    ∃ es, t.evq = s.evq ++ es ∧ t.frameCnt = satAdd s.frameCnt (countKind 1#2 es) ∧
      t.ckerrCnt = satAdd s.ckerrCnt (countKind 2#2 es) ∧ t.ovszCnt = satAdd s.ovszCnt (countKind 3#2 es)

/-! ## The step -/

/-- R9, R71: a step takes one request and no other. Past the instants at which nothing is presented, it takes the one
picked at the first instant that presents some, leaves the others of that instant ahead of the later ones, and runs the
operation it decodes to on that state. That the input is a list in the state is log entry 1, DESIGN CHOICE. -/
def Obligations.StepRunsTheDecodedOperation : Prop :=
  ∀ (s : State) (idle later : List Instant) (now others : Instant) (r : Request) (i : Instr),
    (∀ e ∈ idle, e = []) → s.input = idle ++ now :: later → pickFirst s.phase now = some (r, others) →
    decode s.phase r = .ok i →
    step s = exec i { s with input := if others = [] then later else others :: later }

/-- A request that names no operation of the table stops nothing (R208): received bytes that are not one byte or one
frame are `RX` of each of them (R120), and any other such request is passed over, which is log entry 17, DESIGN CHOICE.
It is taken from the input as any other. -/
def Obligations.RequestsThatNameNoOperationStopNothing : Prop :=
  ∀ (s : State) (idle later : List Instant) (now others : Instant) (r : Request) (why : Reject),
    (∀ e ∈ idle, e = []) → s.input = idle ++ now :: later → pickFirst s.phase now = some (r, others) →
    decode s.phase r = .error why →
    ((r.port = .rxByte ∨ r.port = .wire ∨ r.port = .rx) →
      step s = finish (drainAll r.bytes { s with input := if others = [] then later else others :: later })) ∧
    (¬(r.port = .rxByte ∨ r.port = .wire ∨ r.port = .rx) →
      step s = .next { s with input := if others = [] then later else others :: later })

/-- With nothing presented a step leaves all state, as the block does when it is idle (R207). That there is a step at all
then is log entry 1, DESIGN CHOICE: the block has "no step of its own between operations" (R9). -/
def Obligations.IdleBlockKeepsAllState : Prop :=
  ∀ s : State, (∀ now ∈ s.input, now = []) → step s = .next s

/-- R9: operations presented at one instant are applied in the order `RESET`, `FLUSH`, `ABORT`, `RD`/`WR` of other
registers, `RX`, `ENCODE`. A `WR` of `CMD` has the place of the command it requests, or of a `WR` of another register
when it requests none, and received bytes in any form the place of `RX` (log entries 8, 9 and 17). The request picked at an
instant is the first of the least place, and the others stay as they are. `StepRunsTheDecodedOperation` says that the
step runs the one picked. -/
def Obligations.CoincidentOperationsTakeTheOrderOfR9 : Prop :=
  (∀ (a b : Nat) (v : Word) (x c d : Byte) (p : List Byte), a ≠ 9 →
    priority .reset < priority .flush ∧ priority .flush < priority .abort ∧ priority .abort < priority (.rd b) ∧
    priority (.rd b) = priority (.wr a v) ∧ priority (.wr a v) < priority (.rx x) ∧
    priority (.rx x) < priority (.encode c d p)) ∧
  (∀ (v : Word) (b : Nat),
    (v.getLsbD 0 = true → priority (.wr 9 v) = priority .flush) ∧
    (v.getLsbD 0 = false → v.getLsbD 1 = true → priority (.wr 9 v) = priority .abort) ∧
    (v.getLsbD 0 = false → v.getLsbD 1 = false → priority (.wr 9 v) = priority (.rd b))) ∧
  (∀ (i : Instr) (x c d a b : Byte) (p : List Byte),
    (rowPhase i ≠ none → priority i = priority (.rx x)) ∧ priority (.frame c d p a b) = priority (.rx x) ∧
    priority (.ackAck c d a b) = priority (.rx x) ∧ priority (.ackNak c d a b) = priority (.rx x)) ∧
  (∀ (ph : Phase) (r : Request) (x c d : Byte) (p : List Byte),
    (∀ i, decode ph r = .ok i → rank ph r = priority i) ∧
    (∀ why, decode ph r = .error why →
      ((r.port = .rxByte ∨ r.port = .wire ∨ r.port = .rx) → rank ph r = priority (.rx x)) ∧
      (¬(r.port = .rxByte ∨ r.port = .wire ∨ r.port = .rx) → priority (.encode c d p) < rank ph r))) ∧
  ∀ (ph : Phase) (now others : Instant) (r : Request), pickFirst ph now = some (r, others) →
    ∃ before after, now = before ++ r :: after ∧ others = before ++ after ∧
      (∀ q ∈ before, rank ph r < rank ph q) ∧ ∀ q ∈ after, rank ph r ≤ rank ph q
end

