-- ==== Sys2Proof/Laws/Config.lean ====
section
/-! SUPPORT. The width `NW` of the byte counter (`00_scope.md` R8): the least `w` with `2^w > CAP`, from 4 to 17, and
what it means for `LEVEL` (`10_state.md` R41). -/

namespace Sys2Proof

theorem Config.cap_pos (c : Config) : c.cap ≠ 0 := by simp [Config.cap]

theorem Config.cap_le (c : Config) : c.cap ≤ 65543 := by
  have := c.maxLen.isLt
  simp only [Config.cap]
  omega

/-- `NW` bits hold `CAP`. -/
theorem Config.cap_lt_two_pow_nw (c : Config) : c.cap < 2 ^ c.nw := Nat.lt_log2_self

/-- No fewer bits do. -/
theorem Config.nw_least (c : Config) {w : Nat} (h : c.cap < 2 ^ w) : c.nw ≤ w := by
  have := (Nat.log2_lt c.cap_pos).mpr h
  simp only [Config.nw]
  omega

theorem Config.nw_le (c : Config) : c.nw ≤ 17 := c.nw_least (Nat.lt_of_le_of_lt c.cap_le (by decide))

theorem Config.four_le_nw (c : Config) : 4 ≤ c.nw := by
  have h : 3 ≤ Nat.log2 c.cap := (Nat.le_log2 c.cap_pos).mpr (by simp [Config.cap])
  simp only [Config.nw]
  omega

/-- 9 at the default `MAX_LEN` (R8). -/
theorem Config.nw_default : Config.default.nw = 9 := by decide

namespace Machine

/-- A counter within its range `0 .. CAP` (R22) reads as itself. -/
theorem levelReg_toNat {s : State} (h : s.n ≤ s.cfg.cap) : (levelReg s).toNat = s.n := by
  have h1 : s.n < 2 ^ s.cfg.nw := Nat.lt_of_le_of_lt h s.cfg.cap_lt_two_pow_nw
  have h2 := s.cfg.cap_le
  simp only [levelReg, Nat.mod_eq_of_lt h1, BitVec.toNat_ofNat]
  exact Nat.mod_eq_of_lt (by omega)

end Machine

end Sys2Proof
end

