-- ==== Sys2Proof/Laws/Decode.lean ====
section
/-! SUPPORT. The bit fields of requests and frames: a 32-bit value and its four bytes, a length and its two bytes. -/

namespace Sys2Proof

/-- The four bytes of a 32-bit value give it back (log entry 2). -/
@[simp] theorem word32_extract (w : Word) :
    word32 (w.extractLsb' 0 8) (w.extractLsb' 8 8) (w.extractLsb' 16 8) (w.extractLsb' 24 8) = w := by
  apply BitVec.eq_of_getLsbD_eq
  intro i hi
  simp only [word32, BitVec.getLsbD_append, BitVec.getLsbD_extractLsb']
  by_cases h1 : i < 8
  · simp [h1]
  · by_cases h2 : i - 8 < 8
    · simp [h1, h2, show 8 + (i - 8) = i by omega]
    · by_cases h3 : i - 8 - 8 < 8
      · simp [h1, h2, h3, show 16 + (i - 8 - 8) = i by omega]
      · simp [h1, h2, h3, show 24 + (i - 8 - 8 - 8) = i by omega, show i - 8 - 8 - 8 < 8 by omega]

/-- Each bit of the value is a bit of one of the four bytes (log entry 2). -/
theorem word32_getLsbD (a b c d : Byte) (i : Nat) :
    (word32 a b c d).getLsbD i =
      if i < 8 then a.getLsbD i else if i - 8 < 8 then b.getLsbD (i - 8)
      else if i - 8 - 8 < 8 then c.getLsbD (i - 8 - 8) else d.getLsbD (i - 8 - 8 - 8) := by
  have h : (word32 a b c d).getLsbD i = BitVec.getLsbD (w := 8 + 8 + 8 + 8) (d ++ c ++ b ++ a) i := rfl
  rw [h]
  simp only [BitVec.getLsbD_append]

/-- Four bytes are the bytes of the value they make (log entry 2). -/
@[simp] theorem bytes32_word32 (a b c d : Byte) : bytes32 (word32 a b c d) = [a, b, c, d] := by
  simp only [bytes32, List.cons.injEq, and_true]
  refine ⟨?_, ?_, ?_, ?_⟩ <;>
  · apply BitVec.eq_of_getLsbD_eq
    intro i hi
    simp only [BitVec.getLsbD_extractLsb', word32_getLsbD, hi, decide_true, Bool.true_and]
    repeat' split
    all_goals first | omega | (congr 1; omega)

/-- A length up to 65535 is read back from its two bytes (R83). -/
theorem frameLen_low_high {n : Nat} (h : n ≤ maxPayload) : frameLen (lenLow n) (lenHigh n) = n := by
  simp only [maxPayload] at h
  simp only [frameLen, lenLow, lenHigh, BitVec.toNat_ofNat]
  omega

/-- The two bytes of a length are the bytes it was read from (R83). -/
theorem lenLow_frameLen (l h : Byte) : lenLow (frameLen l h) = l := by
  apply BitVec.eq_of_toNat_eq
  have := l.isLt
  simp only [lenLow, frameLen, BitVec.toNat_ofNat]
  omega

theorem lenHigh_frameLen (l h : Byte) : lenHigh (frameLen l h) = h := by
  apply BitVec.eq_of_toNat_eq
  have := l.isLt
  have := h.isLt
  simp only [lenHigh, frameLen, BitVec.toNat_ofNat]
  omega

theorem frameLen_le (l h : Byte) : frameLen l h ≤ maxPayload := by
  have := l.isLt
  have := h.isLt
  simp only [frameLen, maxPayload]
  omega

/-- A frame is `8 + L` bytes long (R86). -/
@[simp] theorem wireBytes_length (c i : Byte) (p : List Byte) (a b : Byte) :
    (wireBytes c i p a b).length = 8 + p.length := by
  simp [wireBytes, frameBody]
  omega

@[simp] theorem bytes32_length (w : Word) : (bytes32 w).length = 4 := rfl

end Sys2Proof
end

