-- ==== Sys2Proof/Laws/State.lean ====
section
/-! SUPPORT. What each update of the state does to each field: one lemma per field per update, by definition. Written
out so that no later proof unfolds a record update. -/

namespace Sys2Proof.Machine

variable (s : State)


@[simp] theorem bufPush_phase (v : Byte) : (bufPush v s).phase = s.phase := rfl
@[simp] theorem bufPush_n (v : Byte) : (bufPush v s).n = s.n + 1 := rfl
@[simp] theorem bufPush_cls (v : Byte) : (bufPush v s).cls = s.cls := rfl
@[simp] theorem bufPush_id (v : Byte) : (bufPush v s).id = s.id := rfl
@[simp] theorem bufPush_len (v : Byte) : (bufPush v s).len = s.len := rfl
@[simp] theorem bufPush_ckA (v : Byte) : (bufPush v s).ckA = s.ckA := rfl
@[simp] theorem bufPush_ckB (v : Byte) : (bufPush v s).ckB = s.ckB := rfl
@[simp] theorem bufPush_buf (v : Byte) : (bufPush v s).buf = memStore s.buf s.n v := rfl
@[simp] theorem bufPush_frameCnt (v : Byte) : (bufPush v s).frameCnt = s.frameCnt := rfl
@[simp] theorem bufPush_ckerrCnt (v : Byte) : (bufPush v s).ckerrCnt = s.ckerrCnt := rfl
@[simp] theorem bufPush_ovszCnt (v : Byte) : (bufPush v s).ovszCnt = s.ovszCnt := rfl
@[simp] theorem bufPush_skipCnt (v : Byte) : (bufPush v s).skipCnt = s.skipCnt := rfl
@[simp] theorem bufPush_abortCnt (v : Byte) : (bufPush v s).abortCnt = s.abortCnt := rfl
@[simp] theorem bufPush_evq (v : Byte) : (bufPush v s).evq = s.evq := rfl
@[simp] theorem bufPush_txq (v : Byte) : (bufPush v s).txq = s.txq := rfl
@[simp] theorem bufPush_rdq (v : Byte) : (bufPush v s).rdq = s.rdq := rfl
@[simp] theorem bufPush_input (v : Byte) : (bufPush v s).input = s.input := rfl
@[simp] theorem bufPush_cfg (v : Byte) : (bufPush v s).cfg = s.cfg := rfl

@[simp] theorem setPhase_phase (p : Phase) : (setPhase p s).phase = p := rfl
@[simp] theorem setPhase_n (p : Phase) : (setPhase p s).n = s.n := rfl
@[simp] theorem setPhase_cls (p : Phase) : (setPhase p s).cls = s.cls := rfl
@[simp] theorem setPhase_id (p : Phase) : (setPhase p s).id = s.id := rfl
@[simp] theorem setPhase_len (p : Phase) : (setPhase p s).len = s.len := rfl
@[simp] theorem setPhase_ckA (p : Phase) : (setPhase p s).ckA = s.ckA := rfl
@[simp] theorem setPhase_ckB (p : Phase) : (setPhase p s).ckB = s.ckB := rfl
@[simp] theorem setPhase_buf (p : Phase) : (setPhase p s).buf = s.buf := rfl
@[simp] theorem setPhase_frameCnt (p : Phase) : (setPhase p s).frameCnt = s.frameCnt := rfl
@[simp] theorem setPhase_ckerrCnt (p : Phase) : (setPhase p s).ckerrCnt = s.ckerrCnt := rfl
@[simp] theorem setPhase_ovszCnt (p : Phase) : (setPhase p s).ovszCnt = s.ovszCnt := rfl
@[simp] theorem setPhase_skipCnt (p : Phase) : (setPhase p s).skipCnt = s.skipCnt := rfl
@[simp] theorem setPhase_abortCnt (p : Phase) : (setPhase p s).abortCnt = s.abortCnt := rfl
@[simp] theorem setPhase_evq (p : Phase) : (setPhase p s).evq = s.evq := rfl
@[simp] theorem setPhase_txq (p : Phase) : (setPhase p s).txq = s.txq := rfl
@[simp] theorem setPhase_rdq (p : Phase) : (setPhase p s).rdq = s.rdq := rfl
@[simp] theorem setPhase_input (p : Phase) : (setPhase p s).input = s.input := rfl
@[simp] theorem setPhase_cfg (p : Phase) : (setPhase p s).cfg = s.cfg := rfl

@[simp] theorem setCls_phase (x : Byte) : (setCls x s).phase = s.phase := rfl
@[simp] theorem setCls_n (x : Byte) : (setCls x s).n = s.n := rfl
@[simp] theorem setCls_cls (x : Byte) : (setCls x s).cls = x := rfl
@[simp] theorem setCls_id (x : Byte) : (setCls x s).id = s.id := rfl
@[simp] theorem setCls_len (x : Byte) : (setCls x s).len = s.len := rfl
@[simp] theorem setCls_ckA (x : Byte) : (setCls x s).ckA = s.ckA := rfl
@[simp] theorem setCls_ckB (x : Byte) : (setCls x s).ckB = s.ckB := rfl
@[simp] theorem setCls_buf (x : Byte) : (setCls x s).buf = s.buf := rfl
@[simp] theorem setCls_frameCnt (x : Byte) : (setCls x s).frameCnt = s.frameCnt := rfl
@[simp] theorem setCls_ckerrCnt (x : Byte) : (setCls x s).ckerrCnt = s.ckerrCnt := rfl
@[simp] theorem setCls_ovszCnt (x : Byte) : (setCls x s).ovszCnt = s.ovszCnt := rfl
@[simp] theorem setCls_skipCnt (x : Byte) : (setCls x s).skipCnt = s.skipCnt := rfl
@[simp] theorem setCls_abortCnt (x : Byte) : (setCls x s).abortCnt = s.abortCnt := rfl
@[simp] theorem setCls_evq (x : Byte) : (setCls x s).evq = s.evq := rfl
@[simp] theorem setCls_txq (x : Byte) : (setCls x s).txq = s.txq := rfl
@[simp] theorem setCls_rdq (x : Byte) : (setCls x s).rdq = s.rdq := rfl
@[simp] theorem setCls_input (x : Byte) : (setCls x s).input = s.input := rfl
@[simp] theorem setCls_cfg (x : Byte) : (setCls x s).cfg = s.cfg := rfl

@[simp] theorem setId_phase (x : Byte) : (setId x s).phase = s.phase := rfl
@[simp] theorem setId_n (x : Byte) : (setId x s).n = s.n := rfl
@[simp] theorem setId_cls (x : Byte) : (setId x s).cls = s.cls := rfl
@[simp] theorem setId_id (x : Byte) : (setId x s).id = x := rfl
@[simp] theorem setId_len (x : Byte) : (setId x s).len = s.len := rfl
@[simp] theorem setId_ckA (x : Byte) : (setId x s).ckA = s.ckA := rfl
@[simp] theorem setId_ckB (x : Byte) : (setId x s).ckB = s.ckB := rfl
@[simp] theorem setId_buf (x : Byte) : (setId x s).buf = s.buf := rfl
@[simp] theorem setId_frameCnt (x : Byte) : (setId x s).frameCnt = s.frameCnt := rfl
@[simp] theorem setId_ckerrCnt (x : Byte) : (setId x s).ckerrCnt = s.ckerrCnt := rfl
@[simp] theorem setId_ovszCnt (x : Byte) : (setId x s).ovszCnt = s.ovszCnt := rfl
@[simp] theorem setId_skipCnt (x : Byte) : (setId x s).skipCnt = s.skipCnt := rfl
@[simp] theorem setId_abortCnt (x : Byte) : (setId x s).abortCnt = s.abortCnt := rfl
@[simp] theorem setId_evq (x : Byte) : (setId x s).evq = s.evq := rfl
@[simp] theorem setId_txq (x : Byte) : (setId x s).txq = s.txq := rfl
@[simp] theorem setId_rdq (x : Byte) : (setId x s).rdq = s.rdq := rfl
@[simp] theorem setId_input (x : Byte) : (setId x s).input = s.input := rfl
@[simp] theorem setId_cfg (x : Byte) : (setId x s).cfg = s.cfg := rfl

@[simp] theorem setLen_phase (l : Half) : (setLen l s).phase = s.phase := rfl
@[simp] theorem setLen_n (l : Half) : (setLen l s).n = s.n := rfl
@[simp] theorem setLen_cls (l : Half) : (setLen l s).cls = s.cls := rfl
@[simp] theorem setLen_id (l : Half) : (setLen l s).id = s.id := rfl
@[simp] theorem setLen_len (l : Half) : (setLen l s).len = l := rfl
@[simp] theorem setLen_ckA (l : Half) : (setLen l s).ckA = s.ckA := rfl
@[simp] theorem setLen_ckB (l : Half) : (setLen l s).ckB = s.ckB := rfl
@[simp] theorem setLen_buf (l : Half) : (setLen l s).buf = s.buf := rfl
@[simp] theorem setLen_frameCnt (l : Half) : (setLen l s).frameCnt = s.frameCnt := rfl
@[simp] theorem setLen_ckerrCnt (l : Half) : (setLen l s).ckerrCnt = s.ckerrCnt := rfl
@[simp] theorem setLen_ovszCnt (l : Half) : (setLen l s).ovszCnt = s.ovszCnt := rfl
@[simp] theorem setLen_skipCnt (l : Half) : (setLen l s).skipCnt = s.skipCnt := rfl
@[simp] theorem setLen_abortCnt (l : Half) : (setLen l s).abortCnt = s.abortCnt := rfl
@[simp] theorem setLen_evq (l : Half) : (setLen l s).evq = s.evq := rfl
@[simp] theorem setLen_txq (l : Half) : (setLen l s).txq = s.txq := rfl
@[simp] theorem setLen_rdq (l : Half) : (setLen l s).rdq = s.rdq := rfl
@[simp] theorem setLen_input (l : Half) : (setLen l s).input = s.input := rfl
@[simp] theorem setLen_cfg (l : Half) : (setLen l s).cfg = s.cfg := rfl

@[simp] theorem accumulate_phase (x : Byte) : (accumulate x s).phase = s.phase := rfl
@[simp] theorem accumulate_n (x : Byte) : (accumulate x s).n = s.n := rfl
@[simp] theorem accumulate_cls (x : Byte) : (accumulate x s).cls = s.cls := rfl
@[simp] theorem accumulate_id (x : Byte) : (accumulate x s).id = s.id := rfl
@[simp] theorem accumulate_len (x : Byte) : (accumulate x s).len = s.len := rfl
@[simp] theorem accumulate_ckA (x : Byte) : (accumulate x s).ckA = s.ckA + x := rfl
@[simp] theorem accumulate_ckB (x : Byte) : (accumulate x s).ckB = s.ckB + (s.ckA + x) := rfl
@[simp] theorem accumulate_buf (x : Byte) : (accumulate x s).buf = s.buf := rfl
@[simp] theorem accumulate_frameCnt (x : Byte) : (accumulate x s).frameCnt = s.frameCnt := rfl
@[simp] theorem accumulate_ckerrCnt (x : Byte) : (accumulate x s).ckerrCnt = s.ckerrCnt := rfl
@[simp] theorem accumulate_ovszCnt (x : Byte) : (accumulate x s).ovszCnt = s.ovszCnt := rfl
@[simp] theorem accumulate_skipCnt (x : Byte) : (accumulate x s).skipCnt = s.skipCnt := rfl
@[simp] theorem accumulate_abortCnt (x : Byte) : (accumulate x s).abortCnt = s.abortCnt := rfl
@[simp] theorem accumulate_evq (x : Byte) : (accumulate x s).evq = s.evq := rfl
@[simp] theorem accumulate_txq (x : Byte) : (accumulate x s).txq = s.txq := rfl
@[simp] theorem accumulate_rdq (x : Byte) : (accumulate x s).rdq = s.rdq := rfl
@[simp] theorem accumulate_input (x : Byte) : (accumulate x s).input = s.input := rfl
@[simp] theorem accumulate_cfg (x : Byte) : (accumulate x s).cfg = s.cfg := rfl

@[simp] theorem clear_phase : (clear s).phase = .hunt1 := rfl
@[simp] theorem clear_n : (clear s).n = 0 := rfl
@[simp] theorem clear_cls : (clear s).cls = 0#8 := rfl
@[simp] theorem clear_id : (clear s).id = 0#8 := rfl
@[simp] theorem clear_len : (clear s).len = 0#16 := rfl
@[simp] theorem clear_ckA : (clear s).ckA = 0#8 := rfl
@[simp] theorem clear_ckB : (clear s).ckB = 0#8 := rfl
@[simp] theorem clear_buf : (clear s).buf = [] := rfl
@[simp] theorem clear_frameCnt : (clear s).frameCnt = s.frameCnt := rfl
@[simp] theorem clear_ckerrCnt : (clear s).ckerrCnt = s.ckerrCnt := rfl
@[simp] theorem clear_ovszCnt : (clear s).ovszCnt = s.ovszCnt := rfl
@[simp] theorem clear_skipCnt : (clear s).skipCnt = s.skipCnt := rfl
@[simp] theorem clear_abortCnt : (clear s).abortCnt = s.abortCnt := rfl
@[simp] theorem clear_evq : (clear s).evq = s.evq := rfl
@[simp] theorem clear_txq : (clear s).txq = s.txq := rfl
@[simp] theorem clear_rdq : (clear s).rdq = s.rdq := rfl
@[simp] theorem clear_input : (clear s).input = s.input := rfl
@[simp] theorem clear_cfg : (clear s).cfg = s.cfg := rfl

@[simp] theorem emit_phase (e : Event) : (emit e s).phase = s.phase := rfl
@[simp] theorem emit_n (e : Event) : (emit e s).n = s.n := rfl
@[simp] theorem emit_cls (e : Event) : (emit e s).cls = s.cls := rfl
@[simp] theorem emit_id (e : Event) : (emit e s).id = s.id := rfl
@[simp] theorem emit_len (e : Event) : (emit e s).len = s.len := rfl
@[simp] theorem emit_ckA (e : Event) : (emit e s).ckA = s.ckA := rfl
@[simp] theorem emit_ckB (e : Event) : (emit e s).ckB = s.ckB := rfl
@[simp] theorem emit_buf (e : Event) : (emit e s).buf = s.buf := rfl
@[simp] theorem emit_frameCnt (e : Event) : (emit e s).frameCnt = s.frameCnt := rfl
@[simp] theorem emit_ckerrCnt (e : Event) : (emit e s).ckerrCnt = s.ckerrCnt := rfl
@[simp] theorem emit_ovszCnt (e : Event) : (emit e s).ovszCnt = s.ovszCnt := rfl
@[simp] theorem emit_skipCnt (e : Event) : (emit e s).skipCnt = s.skipCnt := rfl
@[simp] theorem emit_abortCnt (e : Event) : (emit e s).abortCnt = s.abortCnt := rfl
@[simp] theorem emit_evq (e : Event) : (emit e s).evq = s.evq ++ [e] := rfl
@[simp] theorem emit_txq (e : Event) : (emit e s).txq = s.txq := rfl
@[simp] theorem emit_rdq (e : Event) : (emit e s).rdq = s.rdq := rfl
@[simp] theorem emit_input (e : Event) : (emit e s).input = s.input := rfl
@[simp] theorem emit_cfg (e : Event) : (emit e s).cfg = s.cfg := rfl

@[simp] theorem send_phase (bs : List Byte) : (send bs s).phase = s.phase := rfl
@[simp] theorem send_n (bs : List Byte) : (send bs s).n = s.n := rfl
@[simp] theorem send_cls (bs : List Byte) : (send bs s).cls = s.cls := rfl
@[simp] theorem send_id (bs : List Byte) : (send bs s).id = s.id := rfl
@[simp] theorem send_len (bs : List Byte) : (send bs s).len = s.len := rfl
@[simp] theorem send_ckA (bs : List Byte) : (send bs s).ckA = s.ckA := rfl
@[simp] theorem send_ckB (bs : List Byte) : (send bs s).ckB = s.ckB := rfl
@[simp] theorem send_buf (bs : List Byte) : (send bs s).buf = s.buf := rfl
@[simp] theorem send_frameCnt (bs : List Byte) : (send bs s).frameCnt = s.frameCnt := rfl
@[simp] theorem send_ckerrCnt (bs : List Byte) : (send bs s).ckerrCnt = s.ckerrCnt := rfl
@[simp] theorem send_ovszCnt (bs : List Byte) : (send bs s).ovszCnt = s.ovszCnt := rfl
@[simp] theorem send_skipCnt (bs : List Byte) : (send bs s).skipCnt = s.skipCnt := rfl
@[simp] theorem send_abortCnt (bs : List Byte) : (send bs s).abortCnt = s.abortCnt := rfl
@[simp] theorem send_evq (bs : List Byte) : (send bs s).evq = s.evq := rfl
@[simp] theorem send_txq (bs : List Byte) : (send bs s).txq = s.txq ++ bs := rfl
@[simp] theorem send_rdq (bs : List Byte) : (send bs s).rdq = s.rdq := rfl
@[simp] theorem send_input (bs : List Byte) : (send bs s).input = s.input := rfl
@[simp] theorem send_cfg (bs : List Byte) : (send bs s).cfg = s.cfg := rfl

@[simp] theorem returnWord_phase (w : Word) : (returnWord w s).phase = s.phase := rfl
@[simp] theorem returnWord_n (w : Word) : (returnWord w s).n = s.n := rfl
@[simp] theorem returnWord_cls (w : Word) : (returnWord w s).cls = s.cls := rfl
@[simp] theorem returnWord_id (w : Word) : (returnWord w s).id = s.id := rfl
@[simp] theorem returnWord_len (w : Word) : (returnWord w s).len = s.len := rfl
@[simp] theorem returnWord_ckA (w : Word) : (returnWord w s).ckA = s.ckA := rfl
@[simp] theorem returnWord_ckB (w : Word) : (returnWord w s).ckB = s.ckB := rfl
@[simp] theorem returnWord_buf (w : Word) : (returnWord w s).buf = s.buf := rfl
@[simp] theorem returnWord_frameCnt (w : Word) : (returnWord w s).frameCnt = s.frameCnt := rfl
@[simp] theorem returnWord_ckerrCnt (w : Word) : (returnWord w s).ckerrCnt = s.ckerrCnt := rfl
@[simp] theorem returnWord_ovszCnt (w : Word) : (returnWord w s).ovszCnt = s.ovszCnt := rfl
@[simp] theorem returnWord_skipCnt (w : Word) : (returnWord w s).skipCnt = s.skipCnt := rfl
@[simp] theorem returnWord_abortCnt (w : Word) : (returnWord w s).abortCnt = s.abortCnt := rfl
@[simp] theorem returnWord_evq (w : Word) : (returnWord w s).evq = s.evq := rfl
@[simp] theorem returnWord_txq (w : Word) : (returnWord w s).txq = s.txq := rfl
@[simp] theorem returnWord_rdq (w : Word) : (returnWord w s).rdq = s.rdq ++ [w] := rfl
@[simp] theorem returnWord_input (w : Word) : (returnWord w s).input = s.input := rfl
@[simp] theorem returnWord_cfg (w : Word) : (returnWord w s).cfg = s.cfg := rfl

@[simp] theorem bumpFrame_phase : (bumpFrame s).phase = s.phase := rfl
@[simp] theorem bumpFrame_n : (bumpFrame s).n = s.n := rfl
@[simp] theorem bumpFrame_cls : (bumpFrame s).cls = s.cls := rfl
@[simp] theorem bumpFrame_id : (bumpFrame s).id = s.id := rfl
@[simp] theorem bumpFrame_len : (bumpFrame s).len = s.len := rfl
@[simp] theorem bumpFrame_ckA : (bumpFrame s).ckA = s.ckA := rfl
@[simp] theorem bumpFrame_ckB : (bumpFrame s).ckB = s.ckB := rfl
@[simp] theorem bumpFrame_buf : (bumpFrame s).buf = s.buf := rfl
@[simp] theorem bumpFrame_frameCnt : (bumpFrame s).frameCnt = satAdd s.frameCnt 1 := rfl
@[simp] theorem bumpFrame_ckerrCnt : (bumpFrame s).ckerrCnt = s.ckerrCnt := rfl
@[simp] theorem bumpFrame_ovszCnt : (bumpFrame s).ovszCnt = s.ovszCnt := rfl
@[simp] theorem bumpFrame_skipCnt : (bumpFrame s).skipCnt = s.skipCnt := rfl
@[simp] theorem bumpFrame_abortCnt : (bumpFrame s).abortCnt = s.abortCnt := rfl
@[simp] theorem bumpFrame_evq : (bumpFrame s).evq = s.evq := rfl
@[simp] theorem bumpFrame_txq : (bumpFrame s).txq = s.txq := rfl
@[simp] theorem bumpFrame_rdq : (bumpFrame s).rdq = s.rdq := rfl
@[simp] theorem bumpFrame_input : (bumpFrame s).input = s.input := rfl
@[simp] theorem bumpFrame_cfg : (bumpFrame s).cfg = s.cfg := rfl

@[simp] theorem bumpCkerr_phase : (bumpCkerr s).phase = s.phase := rfl
@[simp] theorem bumpCkerr_n : (bumpCkerr s).n = s.n := rfl
@[simp] theorem bumpCkerr_cls : (bumpCkerr s).cls = s.cls := rfl
@[simp] theorem bumpCkerr_id : (bumpCkerr s).id = s.id := rfl
@[simp] theorem bumpCkerr_len : (bumpCkerr s).len = s.len := rfl
@[simp] theorem bumpCkerr_ckA : (bumpCkerr s).ckA = s.ckA := rfl
@[simp] theorem bumpCkerr_ckB : (bumpCkerr s).ckB = s.ckB := rfl
@[simp] theorem bumpCkerr_buf : (bumpCkerr s).buf = s.buf := rfl
@[simp] theorem bumpCkerr_frameCnt : (bumpCkerr s).frameCnt = s.frameCnt := rfl
@[simp] theorem bumpCkerr_ckerrCnt : (bumpCkerr s).ckerrCnt = satAdd s.ckerrCnt 1 := rfl
@[simp] theorem bumpCkerr_ovszCnt : (bumpCkerr s).ovszCnt = s.ovszCnt := rfl
@[simp] theorem bumpCkerr_skipCnt : (bumpCkerr s).skipCnt = s.skipCnt := rfl
@[simp] theorem bumpCkerr_abortCnt : (bumpCkerr s).abortCnt = s.abortCnt := rfl
@[simp] theorem bumpCkerr_evq : (bumpCkerr s).evq = s.evq := rfl
@[simp] theorem bumpCkerr_txq : (bumpCkerr s).txq = s.txq := rfl
@[simp] theorem bumpCkerr_rdq : (bumpCkerr s).rdq = s.rdq := rfl
@[simp] theorem bumpCkerr_input : (bumpCkerr s).input = s.input := rfl
@[simp] theorem bumpCkerr_cfg : (bumpCkerr s).cfg = s.cfg := rfl

@[simp] theorem bumpOvsz_phase : (bumpOvsz s).phase = s.phase := rfl
@[simp] theorem bumpOvsz_n : (bumpOvsz s).n = s.n := rfl
@[simp] theorem bumpOvsz_cls : (bumpOvsz s).cls = s.cls := rfl
@[simp] theorem bumpOvsz_id : (bumpOvsz s).id = s.id := rfl
@[simp] theorem bumpOvsz_len : (bumpOvsz s).len = s.len := rfl
@[simp] theorem bumpOvsz_ckA : (bumpOvsz s).ckA = s.ckA := rfl
@[simp] theorem bumpOvsz_ckB : (bumpOvsz s).ckB = s.ckB := rfl
@[simp] theorem bumpOvsz_buf : (bumpOvsz s).buf = s.buf := rfl
@[simp] theorem bumpOvsz_frameCnt : (bumpOvsz s).frameCnt = s.frameCnt := rfl
@[simp] theorem bumpOvsz_ckerrCnt : (bumpOvsz s).ckerrCnt = s.ckerrCnt := rfl
@[simp] theorem bumpOvsz_ovszCnt : (bumpOvsz s).ovszCnt = satAdd s.ovszCnt 1 := rfl
@[simp] theorem bumpOvsz_skipCnt : (bumpOvsz s).skipCnt = s.skipCnt := rfl
@[simp] theorem bumpOvsz_abortCnt : (bumpOvsz s).abortCnt = s.abortCnt := rfl
@[simp] theorem bumpOvsz_evq : (bumpOvsz s).evq = s.evq := rfl
@[simp] theorem bumpOvsz_txq : (bumpOvsz s).txq = s.txq := rfl
@[simp] theorem bumpOvsz_rdq : (bumpOvsz s).rdq = s.rdq := rfl
@[simp] theorem bumpOvsz_input : (bumpOvsz s).input = s.input := rfl
@[simp] theorem bumpOvsz_cfg : (bumpOvsz s).cfg = s.cfg := rfl

@[simp] theorem bumpSkip_phase (k : Nat) : (bumpSkip k s).phase = s.phase := rfl
@[simp] theorem bumpSkip_n (k : Nat) : (bumpSkip k s).n = s.n := rfl
@[simp] theorem bumpSkip_cls (k : Nat) : (bumpSkip k s).cls = s.cls := rfl
@[simp] theorem bumpSkip_id (k : Nat) : (bumpSkip k s).id = s.id := rfl
@[simp] theorem bumpSkip_len (k : Nat) : (bumpSkip k s).len = s.len := rfl
@[simp] theorem bumpSkip_ckA (k : Nat) : (bumpSkip k s).ckA = s.ckA := rfl
@[simp] theorem bumpSkip_ckB (k : Nat) : (bumpSkip k s).ckB = s.ckB := rfl
@[simp] theorem bumpSkip_buf (k : Nat) : (bumpSkip k s).buf = s.buf := rfl
@[simp] theorem bumpSkip_frameCnt (k : Nat) : (bumpSkip k s).frameCnt = s.frameCnt := rfl
@[simp] theorem bumpSkip_ckerrCnt (k : Nat) : (bumpSkip k s).ckerrCnt = s.ckerrCnt := rfl
@[simp] theorem bumpSkip_ovszCnt (k : Nat) : (bumpSkip k s).ovszCnt = s.ovszCnt := rfl
@[simp] theorem bumpSkip_skipCnt (k : Nat) : (bumpSkip k s).skipCnt = satAdd s.skipCnt k := rfl
@[simp] theorem bumpSkip_abortCnt (k : Nat) : (bumpSkip k s).abortCnt = s.abortCnt := rfl
@[simp] theorem bumpSkip_evq (k : Nat) : (bumpSkip k s).evq = s.evq := rfl
@[simp] theorem bumpSkip_txq (k : Nat) : (bumpSkip k s).txq = s.txq := rfl
@[simp] theorem bumpSkip_rdq (k : Nat) : (bumpSkip k s).rdq = s.rdq := rfl
@[simp] theorem bumpSkip_input (k : Nat) : (bumpSkip k s).input = s.input := rfl
@[simp] theorem bumpSkip_cfg (k : Nat) : (bumpSkip k s).cfg = s.cfg := rfl

@[simp] theorem bumpAbort_phase : (bumpAbort s).phase = s.phase := rfl
@[simp] theorem bumpAbort_n : (bumpAbort s).n = s.n := rfl
@[simp] theorem bumpAbort_cls : (bumpAbort s).cls = s.cls := rfl
@[simp] theorem bumpAbort_id : (bumpAbort s).id = s.id := rfl
@[simp] theorem bumpAbort_len : (bumpAbort s).len = s.len := rfl
@[simp] theorem bumpAbort_ckA : (bumpAbort s).ckA = s.ckA := rfl
@[simp] theorem bumpAbort_ckB : (bumpAbort s).ckB = s.ckB := rfl
@[simp] theorem bumpAbort_buf : (bumpAbort s).buf = s.buf := rfl
@[simp] theorem bumpAbort_frameCnt : (bumpAbort s).frameCnt = s.frameCnt := rfl
@[simp] theorem bumpAbort_ckerrCnt : (bumpAbort s).ckerrCnt = s.ckerrCnt := rfl
@[simp] theorem bumpAbort_ovszCnt : (bumpAbort s).ovszCnt = s.ovszCnt := rfl
@[simp] theorem bumpAbort_skipCnt : (bumpAbort s).skipCnt = s.skipCnt := rfl
@[simp] theorem bumpAbort_abortCnt : (bumpAbort s).abortCnt = satAdd s.abortCnt 1 := rfl
@[simp] theorem bumpAbort_evq : (bumpAbort s).evq = s.evq := rfl
@[simp] theorem bumpAbort_txq : (bumpAbort s).txq = s.txq := rfl
@[simp] theorem bumpAbort_rdq : (bumpAbort s).rdq = s.rdq := rfl
@[simp] theorem bumpAbort_input : (bumpAbort s).input = s.input := rfl
@[simp] theorem bumpAbort_cfg : (bumpAbort s).cfg = s.cfg := rfl

@[simp] theorem zeroCounters_phase : (zeroCounters s).phase = s.phase := rfl
@[simp] theorem zeroCounters_n : (zeroCounters s).n = s.n := rfl
@[simp] theorem zeroCounters_cls : (zeroCounters s).cls = s.cls := rfl
@[simp] theorem zeroCounters_id : (zeroCounters s).id = s.id := rfl
@[simp] theorem zeroCounters_len : (zeroCounters s).len = s.len := rfl
@[simp] theorem zeroCounters_ckA : (zeroCounters s).ckA = s.ckA := rfl
@[simp] theorem zeroCounters_ckB : (zeroCounters s).ckB = s.ckB := rfl
@[simp] theorem zeroCounters_buf : (zeroCounters s).buf = s.buf := rfl
@[simp] theorem zeroCounters_frameCnt : (zeroCounters s).frameCnt = 0#32 := rfl
@[simp] theorem zeroCounters_ckerrCnt : (zeroCounters s).ckerrCnt = 0#32 := rfl
@[simp] theorem zeroCounters_ovszCnt : (zeroCounters s).ovszCnt = 0#32 := rfl
@[simp] theorem zeroCounters_skipCnt : (zeroCounters s).skipCnt = 0#32 := rfl
@[simp] theorem zeroCounters_abortCnt : (zeroCounters s).abortCnt = 0#32 := rfl
@[simp] theorem zeroCounters_evq : (zeroCounters s).evq = s.evq := rfl
@[simp] theorem zeroCounters_txq : (zeroCounters s).txq = s.txq := rfl
@[simp] theorem zeroCounters_rdq : (zeroCounters s).rdq = s.rdq := rfl
@[simp] theorem zeroCounters_input : (zeroCounters s).input = s.input := rfl
@[simp] theorem zeroCounters_cfg : (zeroCounters s).cfg = s.cfg := rfl

@[simp] theorem report_phase (k : RejectKind) (raw : List Byte) : (report k raw s).phase = s.phase := by cases k <;> rfl
@[simp] theorem report_n (k : RejectKind) (raw : List Byte) : (report k raw s).n = s.n := by cases k <;> rfl
@[simp] theorem report_cls (k : RejectKind) (raw : List Byte) : (report k raw s).cls = s.cls := by cases k <;> rfl
@[simp] theorem report_id (k : RejectKind) (raw : List Byte) : (report k raw s).id = s.id := by cases k <;> rfl
@[simp] theorem report_len (k : RejectKind) (raw : List Byte) : (report k raw s).len = s.len := by cases k <;> rfl
@[simp] theorem report_ckA (k : RejectKind) (raw : List Byte) : (report k raw s).ckA = s.ckA := by cases k <;> rfl
@[simp] theorem report_ckB (k : RejectKind) (raw : List Byte) : (report k raw s).ckB = s.ckB := by cases k <;> rfl
@[simp] theorem report_buf (k : RejectKind) (raw : List Byte) : (report k raw s).buf = s.buf := by cases k <;> rfl
@[simp] theorem report_frameCnt (k : RejectKind) (raw : List Byte) : (report k raw s).frameCnt = s.frameCnt := by cases k <;> rfl
@[simp] theorem report_skipCnt (k : RejectKind) (raw : List Byte) : (report k raw s).skipCnt = s.skipCnt := by cases k <;> rfl
@[simp] theorem report_abortCnt (k : RejectKind) (raw : List Byte) : (report k raw s).abortCnt = s.abortCnt := by cases k <;> rfl
@[simp] theorem report_txq (k : RejectKind) (raw : List Byte) : (report k raw s).txq = s.txq := by cases k <;> rfl
@[simp] theorem report_rdq (k : RejectKind) (raw : List Byte) : (report k raw s).rdq = s.rdq := by cases k <;> rfl
@[simp] theorem report_input (k : RejectKind) (raw : List Byte) : (report k raw s).input = s.input := by cases k <;> rfl
@[simp] theorem report_cfg (k : RejectKind) (raw : List Byte) : (report k raw s).cfg = s.cfg := by cases k <;> rfl

end Sys2Proof.Machine
end

