-- ==== Sys2Proof/Laws/Fetch.lean ====
section
/-! SUPPORT. The fetch touches the input only, and one step is the fetched operation (`00_scope.md` R9). -/

namespace Sys2Proof.Machine

/-- Taking a request from the input changes the input and nothing else. -/
theorem afterFetch_eq (s : State) : ∃ left, afterFetch s = { s with input := left } := by
  unfold afterFetch
  split
  · exact ⟨s.input, rfl⟩
  · exact ⟨_, rfl⟩

@[simp] theorem afterFetch_phase (s : State) : (afterFetch s).phase = s.phase := by
  obtain ⟨_, h⟩ := afterFetch_eq s
  rw [h]

/-- An instant at which nothing is presented is passed over. -/
@[simp] theorem nextRequest_nil (ph : Phase) (later : List Instant) :
    nextRequest ph ([] :: later) = nextRequest ph later := rfl

/-- The request picked at an instant is the next one, and the others stay ahead of the later instants. -/
theorem nextRequest_cons {ph : Phase} {now others : Instant} {r : Request} (later : List Instant)
    (h : pickFirst ph now = some (r, others)) :
    nextRequest ph (now :: later) = some (r, if others = [] then later else others :: later) := by
  cases others <;> simp [nextRequest, h]

/-- A request presented alone is the next one. -/
@[simp] theorem fetchRequest_present (r : Request) (s : State) : fetchRequest (present r s) = some r := rfl

/-- Taking it gives the state back. -/
@[simp] theorem afterFetch_present (r : Request) (s : State) : afterFetch (present r s) = s := rfl

/-- A step on a request presented alone. -/
theorem step_present (r : Request) (s : State) :
    step (present r s) =
      match decode s.phase r with
      | .error _ => applyUnnamed r s
      | .ok i => exec i s := rfl

/-- An operation that answers a next state answered it without a stop. -/
theorem finish_next {r : Except Fault State} {t : State} : finish r = .next t ↔ r = .ok t := by
  cases r <;> simp [finish]

/-- Nothing but received bytes, or nothing at all, comes of a request that names no operation. -/
theorem applyUnnamed_cases {r : Request} {s t : State} (h : applyUnnamed r s = .next t) :
    (carriesReceived r.port = true ∧ rxBytes r.bytes s = .ok t) ∨ (carriesReceived r.port = false ∧ t = s) := by
  cases hc : carriesReceived r.port with
  | true => exact .inl ⟨rfl, finish_next.mp (by simpa [applyUnnamed, hc] using h)⟩
  | false =>
    simp only [applyUnnamed, hc, Bool.false_eq_true, if_false] at h
    exact .inr ⟨rfl, (Host.Outcome.next.inj h).symm⟩

/-- Everything a step that goes on can be: idle, the operation fetched and decoded, or a request that names none. -/
theorem step_cases {s t : State} (h : step s = .next t) :
    (fetchRequest s = none ∧ t = s) ∨
      (∃ r i, fetchRequest s = some r ∧ decode s.phase r = .ok i ∧ exec i (afterFetch s) = .next t) ∨
      ∃ r why, fetchRequest s = some r ∧ decode s.phase r = .error why ∧ applyUnnamed r (afterFetch s) = .next t := by
  unfold step at h
  cases hf : fetchRequest s with
  | none =>
    rw [hf] at h
    exact .inl ⟨rfl, (Host.Outcome.next.inj h).symm⟩
  | some r =>
    rw [hf] at h
    cases hd : decode s.phase r with
    | error why => exact .inr (.inr ⟨r, why, rfl, hd, by simpa [hd] using h⟩)
    | ok i => exact .inr (.inl ⟨r, i, rfl, hd, by simpa [hd] using h⟩)

/-- A meaning of an RXBYTE row that answers a next state was the selected one. -/
theorem whenSelected_next {b : Bool} {r : StepResult} {t : State} :
    whenSelected b r = .next t ↔ b = true ∧ settle r = .ok t := by
  cases b <;> simp [whenSelected, finish_next]

end Sys2Proof.Machine
end

