-- ==== Sys2Proof/Laws/Memory.lean ====
section
/-! SUPPORT. The buffer (`20_memory.md` R60 to R66): a read after a write, the canonical form, and `BUF` as a sequence
after `Append`. -/

namespace Sys2Proof.Machine

/-- A read of the location just written gives the value written. -/
@[simp] theorem memLookup_memStore_same (m : Memory) (a : Nat) (v : Byte) :
    memLookup (memStore m a v) a = some v := by
  induction m with
  | nil => simp [memStore, memLookup]
  | cons c rest ih =>
    simp only [memStore]
    split
    · have : c.1 ≠ a := by omega
      simp [memLookup, this, ih]
    · split <;> simp [memLookup]

/-- A write leaves every other location alone. -/
theorem memLookup_memStore_other (m : Memory) {a b : Nat} (v : Byte) (h : b ≠ a) :
    memLookup (memStore m a v) b = memLookup m b := by
  induction m with
  | nil => simp [memStore, memLookup, h.symm]
  | cons c rest ih =>
    simp only [memStore]
    split
    · simp [memLookup, ih]
    · split
      · have : c.1 ≠ b := by omega
        simp [memLookup, this, h.symm]
      · simp [memLookup, h.symm]

/-- The addresses listed after a write are those listed before and the one written. -/
theorem mem_memStore {m : Memory} {a : Nat} {v : Byte} {c : Host.Cell} (h : c ∈ memStore m a v) :
    c ∈ m ∨ c = (a, v) := by
  induction m with
  | nil => simpa [memStore] using h
  | cons d rest ih =>
    simp only [memStore] at h
    split at h
    · rcases List.mem_cons.mp h with h | h
      · exact .inl (by simp [h])
      · rcases ih h with h | h
        · exact .inl (by simp [h])
        · exact .inr h
    · split at h <;> simp at h ⊢ <;> tauto

/-- A write keeps the canonical form. -/
theorem memStore_wf {m : Memory} (h : Memory.wf m) (a : Nat) (v : Byte) : Memory.wf (memStore m a v) := by
  induction m with
  | nil => simp [memStore, Memory.wf]
  | cons c rest ih =>
    obtain ⟨hc, hr⟩ := List.pairwise_cons.mp h
    simp only [memStore]
    split
    · refine List.pairwise_cons.mpr ⟨fun d hd => ?_, ih hr⟩
      rcases mem_memStore hd with hd | rfl
      · exact hc d hd
      · assumption
    · split
      · refine List.pairwise_cons.mpr ⟨fun d hd => ?_, hr⟩
        have := hc d hd
        omega
      · refine List.pairwise_cons.mpr ⟨fun d hd => ?_, h⟩
        rcases List.mem_cons.mp hd with rfl | hd
        · show a < d.1
          omega
        · have := hc d hd
          show a < d.1
          omega

/-- A write above every listed address adds its cell at the end. -/
theorem memStore_end {m : Memory} {a : Nat} (v : Byte) (h : ∀ c ∈ m, c.1 < a) : memStore m a v = m ++ [(a, v)] := by
  induction m with
  | nil => rfl
  | cons c rest ih =>
    have hc : c.1 < a := h c (by simp)
    simp [memStore, hc, ih (fun d hd => h d (by simp [hd]))]

/-- A buffer that lists exactly `0 .. n - 1` lists exactly `0 .. n` after `Append`. -/
theorem memStore_range {m : Memory} {n : Nat} (v : Byte) (h : m.map Prod.fst = List.range n) :
    (memStore m n v).map Prod.fst = List.range (n + 1) := by
  have hlt : ∀ c ∈ m, c.1 < n := fun c hc => by
    have : c.1 ∈ m.map Prod.fst := List.mem_map_of_mem hc
    simpa [h] using this
  simp [memStore_end v hlt, h, List.range_succ]

/-- A buffer that lists exactly `0 .. n - 1` is in canonical form. -/
theorem wf_of_range {m : Memory} {n : Nat} (h : m.map Prod.fst = List.range n) : Memory.wf m := by
  have := List.pairwise_lt_range (n := n)
  rw [← h] at this
  exact List.pairwise_map.mp this

/-- The byte just appended. -/
@[simp] theorem bufByte_bufPush_same (s : State) (v : Byte) : bufByte (bufPush v s) s.n = v := by
  simp [bufByte]

/-- Every other location after `Append`. -/
theorem bufByte_bufPush_other (s : State) (v : Byte) {a : Nat} (h : a ≠ s.n) :
    bufByte (bufPush v s) a = bufByte s a := by
  simp [bufByte, memLookup_memStore_other _ _ h]

/-- `bufByte` and `bufRange` look at the cells only. -/
theorem bufByte_congr {s t : State} (h : t.buf = s.buf) (a : Nat) : bufByte t a = bufByte s a := by
  simp [bufByte, h]

theorem bufRange_congr {s t : State} (h : t.buf = s.buf) (lo hi : Nat) : bufRange t lo hi = bufRange s lo hi := by
  simp only [bufRange]
  exact List.map_congr_left fun a _ => bufByte_congr h a

/-- The bytes below `N` are not touched by `Append`. -/
theorem bufRange_bufPush_low (s : State) (v : Byte) {lo hi : Nat} (h : hi ≤ s.n) :
    bufRange (bufPush v s) lo hi = bufRange s lo hi := by
  simp only [bufRange]
  refine List.map_congr_left fun a ha => bufByte_bufPush_other s v ?_
  obtain ⟨i, hi, rfl⟩ := List.mem_range'.mp ha
  omega

@[simp] theorem bufRange_length (s : State) (lo hi : Nat) : (bufRange s lo hi).length = hi - lo := by
  simp [bufRange]

/-- `BUF[lo .. hi + 1)` is `BUF[lo .. hi)` and the byte at `hi`. -/
theorem bufRange_succ (s : State) {lo hi : Nat} (h : lo ≤ hi) :
    bufRange s lo (hi + 1) = bufRange s lo hi ++ [bufByte s hi] := by
  have h1 : hi + 1 - lo = (hi - lo) + 1 := by omega
  simp only [bufRange, h1, List.range'_concat, List.map_append, List.map_cons, List.map_nil]
  congr 3
  omega

/-- A range read in two parts. -/
theorem bufRange_append (s : State) {lo mid hi : Nat} (h1 : lo ≤ mid) (h2 : mid ≤ hi) :
    bufRange s lo mid ++ bufRange s mid hi = bufRange s lo hi := by
  have h : hi - lo = (mid - lo) + (hi - mid) := by omega
  simp only [bufRange, ← List.map_append, h]
  congr 1
  have := List.range'_append_1 (s := lo) (m := mid - lo) (n := hi - mid)
  rwa [show lo + (mid - lo) = mid by omega] at this

/-- `BUF[0 .. N)` without its first byte is `BUF[1 .. N)`. -/
theorem bufRange_drop_one (s : State) (n : Nat) : (bufRange s 0 n).drop 1 = bufRange s 1 n := by
  cases n with
  | zero => simp [bufRange]
  | succ n => simp [bufRange, List.range'_succ]

/-- `BUF` as a sequence after `Append(v)` (R14): one byte more at the end. -/
@[simp] theorem bufBytes_bufPush (s : State) (v : Byte) : bufBytes (bufPush v s) = bufBytes s ++ [v] := by
  have h := bufRange_succ (bufPush v s) (Nat.zero_le s.n)
  rw [bufByte_bufPush_same, bufRange_bufPush_low s v (Nat.le_refl _)] at h
  simpa [bufBytes] using h

@[simp] theorem bufBytes_length (s : State) : (bufBytes s).length = s.n := by
  simp [bufBytes]

theorem bufBytes_congr {s t : State} (hb : t.buf = s.buf) (hn : t.n = s.n) : bufBytes t = bufBytes s := by
  simp [bufBytes, hn, bufRange_congr hb]

@[simp] theorem bufBytes_clear (s : State) : bufBytes (clear s) = [] := by
  simp [bufBytes, bufRange]

/-- Right after reset the buffer lists nothing and is in canonical form. -/
theorem reset_wf : Memory.wf State.reset.buf := by
  simp [State.reset, Memory.wf]

end Sys2Proof.Machine
end

