-- ==== Sys2Proof/Laws/Ops.lean ====
section
/-! SUPPORT. What the shared operations can do, said once: saturation, `Append`, the buffer reads, `Accept()` and
`raise`. -/

namespace Sys2Proof.Machine

/-- The value of a saturated count (R12). -/
theorem sat32_toNat (v : Nat) : (sat32 v).toNat = min v (2 ^ 32 - 1) := by
  simp only [sat32, BitVec.toNat_ofNat]
  exact Nat.mod_eq_of_lt (by omega)

/-- The value of a counter after `Bump(C, k)` (R36). -/
theorem satAdd_toNat (c : Word) (k : Nat) : (satAdd c k).toNat = min (c.toNat + k) (2 ^ 32 - 1) := sat32_toNat _

@[simp] theorem satAdd_zero (c : Word) : satAdd c 0 = c := by
  apply BitVec.eq_of_toNat_eq
  rw [satAdd_toNat]
  have := c.isLt
  omega

/-- Two bumps are one bump by the sum, saturated or not (R36). -/
theorem satAdd_satAdd (c : Word) (j k : Nat) : satAdd (satAdd c j) k = satAdd c (j + k) := by
  apply BitVec.eq_of_toNat_eq
  simp only [satAdd_toNat]
  omega

/-- No bump lowers a counter. -/
theorem le_satAdd (c : Word) (k : Nat) : c.toNat ≤ (satAdd c k).toNat := by
  rw [satAdd_toNat]
  have := c.isLt
  omega

/-- `Append` on a buffer with room. -/
theorem bufAppend_ok {s : State} (v : Byte) (h : s.n < bufCap s) : bufAppend v s = .ok (bufPush v s) := by
  simp [bufAppend, h]

/-- `Append` answers a state only on a buffer with room, and then the pushed one. -/
theorem bufAppend_cases {v : Byte} {s t : State} (h : bufAppend v s = .ok t) : t = bufPush v s ∧ s.n < bufCap s := by
  unfold bufAppend at h
  split at h
  · exact ⟨(Except.ok.inj h).symm, ‹_›⟩
  · cases h

/-- `Append` that stops names the index it would have written. -/
theorem bufAppend_error {v : Byte} {s : State} {f : Fault} (h : bufAppend v s = .error f) :
    f = .bufferAddress s.n ∧ bufCap s ≤ s.n := by
  unfold bufAppend at h
  split at h
  · cases h
  · exact ⟨(Except.error.inj h).symm, by omega⟩

theorem bufSlice_ok {s : State} {lo hi : Nat} (h : hi ≤ bufCap s) : bufSlice s lo hi = .ok (bufRange s lo hi) := by
  simp [bufSlice, h]

theorem bufSlice_cases {s : State} {lo hi : Nat} {bs : List Byte} (h : bufSlice s lo hi = .ok bs) :
    bs = bufRange s lo hi ∧ hi ≤ bufCap s := by
  unfold bufSlice at h
  split at h
  · exact ⟨(Except.ok.inj h).symm, ‹_›⟩
  · cases h

theorem bufSlice_error {s : State} {lo hi : Nat} {f : Fault} (h : bufSlice s lo hi = .error f) :
    f = .bufferAddress (hi - 1) ∧ bufCap s < hi := by
  unfold bufSlice at h
  split at h
  · cases h
  · exact ⟨(Except.error.inj h).symm, by omega⟩

theorem bufRead_ok {s : State} {i : Nat} (h : i < bufCap s) : bufRead s i = .ok (bufByte s i) := by
  simp [bufRead, h]

theorem bufRead_cases {s : State} {i : Nat} {b : Byte} (h : bufRead s i = .ok b) :
    b = bufByte s i ∧ i < bufCap s := by
  unfold bufRead at h
  split at h
  · exact ⟨(Except.ok.inj h).symm, ‹_›⟩
  · cases h

theorem bufRead_error {s : State} {i : Nat} {f : Fault} (h : bufRead s i = .error f) :
    f = .bufferAddress i ∧ bufCap s ≤ i := by
  unfold bufRead at h
  split at h
  · cases h
  · exact ⟨(Except.error.inj h).symm, by omega⟩

/-- Everything `Accept()` (R134) can do. -/
theorem accept_cases {s t : State} (h : accept s = .ok t) :
    t = clear (bumpFrame (emit (.frame s.cls s.id s.len (bufRange s 6 (6 + s.len.toNat))) s)) ∧
      6 + s.len.toNat ≤ bufCap s := by
  unfold accept at h
  split at h
  · cases h
  · rename_i p hp
    obtain ⟨rfl, hcap⟩ := bufSlice_cases hp
    exact ⟨(Except.ok.inj h).symm, hcap⟩

/-- `Accept()` runs where the payload lies inside the buffer. -/
theorem accept_ok {s : State} (h : 6 + s.len.toNat ≤ bufCap s) :
    accept s = .ok (clear (bumpFrame (emit (.frame s.cls s.id s.len (bufRange s 6 (6 + s.len.toNat))) s))) := by
  simp [accept, bufSlice_ok h]

/-- Everything `raise` (R195) can do. -/
theorem raise_cases {k : RejectKind} {s t : State} {replay : List Byte} (h : raise k s = .ok (t, replay)) :
    t = clear (bumpSkip 1 (report k (bufBytes s) s)) ∧ replay = (bufBytes s).drop 1 ∧ s.n ≤ bufCap s := by
  unfold raise at h
  split at h
  · cases h
  · rename_i raw hraw
    obtain ⟨rfl, hcap⟩ := bufSlice_cases hraw
    obtain ⟨h1, h2⟩ := Prod.mk.inj (Except.ok.inj h)
    exact ⟨h1.symm, h2.symm, hcap⟩

/-- `raise` runs where the candidate lies inside the buffer. -/
theorem raise_ok (k : RejectKind) {s : State} (h : s.n ≤ bufCap s) :
    raise k s = .ok (clear (bumpSkip 1 (report k (bufBytes s) s)), (bufBytes s).drop 1) := by
  simp [raise, bufSlice_ok h, bufBytes]

end Sys2Proof.Machine
end

