-- ==== Sys2Proof/Laws/PerInstr.lean ====
section
/-! SUPPORT. The per-instruction family `RequestSize`: how many bytes each operation's request has (R86, R90, R120,
and the layouts of log entry 2). -/

namespace Sys2Proof.Laws.RequestSize

/-- The request of the operation has the length of its row. -/
def Statement (i : Instr) : Prop := (encode i).bytes.length = requestLength i

theorem skip (x : Byte) : Statement (.skip x) := rfl
theorem sync1 : Statement .sync1 := rfl
theorem sync2 : Statement .sync2 := rfl
theorem resync1 : Statement .resync1 := rfl
theorem desync (x : Byte) : Statement (.desync x) := rfl
theorem cls (x : Byte) : Statement (.cls x) := rfl
theorem idb (x : Byte) : Statement (.idb x) := rfl
theorem lenl (x : Byte) : Statement (.lenl x) := rfl
theorem lenh (x : Byte) : Statement (.lenh x) := rfl
theorem payl (x : Byte) : Statement (.payl x) := rfl
theorem cka (x : Byte) : Statement (.cka x) := rfl
theorem ckb (x : Byte) : Statement (.ckb x) := rfl
theorem frame (c i : Byte) (p : List Byte) (a b : Byte) : Statement (.frame c i p a b) := wireBytes_length c i p a b
theorem ackAck (c i a b : Byte) : Statement (.ackAck c i a b) := rfl
theorem ackNak (c i a b : Byte) : Statement (.ackNak c i a b) := rfl
theorem rd (i : Nat) : Statement (.rd i) := rfl
theorem wr (i : Nat) (v : Word) : Statement (.wr i v) := rfl
theorem flush : Statement .flush := rfl
theorem abort : Statement .abort := rfl
theorem encode (c i : Byte) (p : List Byte) : Statement (.encode c i p) := by
  simp [Statement, Sys2Proof.encode, requestLength]
  omega
theorem rx (b : Byte) : Statement (.rx b) := rfl
theorem reset : Statement .reset := rfl

end Sys2Proof.Laws.RequestSize
end

