-- ==== Sys2Proof/Laws/Receive.lean ====
section
/-! SUPPORT. The receive path: everything one `Step` can do (`stepByte_cases`), and the equations of `Drain`
(`41_decoder.md` R120) with the fuel of R135 gone (`drainAll_nil`, `drainAll_cons`, `drainAll_append`). -/

namespace Sys2Proof.Machine

/-- Everything one `Step(x)` in state `s` can do when it does not stop: the operation and its guard, the state after
it, the bytes to be replayed. One case per operation of R94, more where its rule has cases. -/
inductive StepCase (x : Byte) (s : State) : State → List Byte → Prop where
  | skip (hp : s.phase = .hunt1) (hx : x ≠ sync1Byte) : StepCase x s (bumpSkip 1 s) []
  | sync1 (hp : s.phase = .hunt1) (hx : x = sync1Byte) (hn : s.n < bufCap s) :
      StepCase x s (setPhase .hunt2 (bufPush x s)) []
  | sync2 (hp : s.phase = .hunt2) (hx : x = sync2Byte) (hn : s.n < bufCap s) :
      StepCase x s (setPhase .cls (bufPush x s)) []
  | resync1 (hp : s.phase = .hunt2) (hx : x = sync1Byte) : StepCase x s (bumpSkip 1 s) []
  | desync (hp : s.phase = .hunt2) (h2 : x ≠ sync2Byte) (h1 : x ≠ sync1Byte) :
      StepCase x s (clear (bumpSkip 2 s)) []
  | cls (hp : s.phase = .cls) (hn : s.n < bufCap s) :
      StepCase x s (setPhase .id (accumulate x (setCls x (bufPush x s)))) []
  | idb (hp : s.phase = .id) (hn : s.n < bufCap s) :
      StepCase x s (setPhase .lenLo (accumulate x (setId x (bufPush x s)))) []
  | lenl (hp : s.phase = .lenLo) (hn : s.n < bufCap s) :
      StepCase x s (setPhase .lenHi (accumulate x (setLen (x.setWidth 16) (bufPush x s)))) []
  | lenhOversized (hp : s.phase = .lenHi) (hn : s.n < bufCap s)
      (hl : s.cfg.maxLen.toNat < (fullLen x s.len).toNat) :
      StepCase x s
        (clear (bumpSkip 1 (bumpOvsz (emit (.oversized s.cls s.id (fullLen x s.len))
          (accumulate x (setLen (fullLen x s.len) (bufPush x s)))))))
        ((bufBytes s ++ [x]).drop 1)
  | lenhEmpty (hp : s.phase = .lenHi) (hn : s.n < bufCap s)
      (hl : (fullLen x s.len).toNat ≤ s.cfg.maxLen.toNat) (h0 : fullLen x s.len = 0#16) :
      StepCase x s (setPhase .ckA (accumulate x (setLen (fullLen x s.len) (bufPush x s)))) []
  | lenhPayload (hp : s.phase = .lenHi) (hn : s.n < bufCap s)
      (hl : (fullLen x s.len).toNat ≤ s.cfg.maxLen.toNat) (h0 : fullLen x s.len ≠ 0#16) :
      StepCase x s (setPhase .payload (accumulate x (setLen (fullLen x s.len) (bufPush x s)))) []
  | paylLast (hp : s.phase = .payload) (hn : s.n < bufCap s) (he : s.n + 1 = 6 + s.len.toNat) :
      StepCase x s (setPhase .ckA (accumulate x (bufPush x s))) []
  | paylMore (hp : s.phase = .payload) (hn : s.n < bufCap s) (he : s.n + 1 ≠ 6 + s.len.toNat) :
      StepCase x s (accumulate x (bufPush x s)) []
  | cka (hp : s.phase = .ckA) (hn : s.n < bufCap s) : StepCase x s (setPhase .ckB (bufPush x s)) []
  | ckbAccept (hp : s.phase = .ckB) (hn : s.n < bufCap s) (hr : 6 + s.len.toNat < bufCap s)
      (ha : bufByte (bufPush x s) (6 + s.len.toNat) = s.ckA) (hb : x = s.ckB) :
      StepCase x s
        (clear (bumpFrame (emit (.frame s.cls s.id s.len (bufRange (bufPush x s) 6 (6 + s.len.toNat))) (bufPush x s)))) []
  | ckbReject (hp : s.phase = .ckB) (hn : s.n < bufCap s) (hr : 6 + s.len.toNat < bufCap s)
      (hne : ¬(bufByte (bufPush x s) (6 + s.len.toNat) = s.ckA ∧ x = s.ckB)) :
      StepCase x s
        (clear (bumpSkip 1 (bumpCkerr (emit (.checksumError (bufBytes s ++ [x])) (bufPush x s)))))
        ((bufBytes s ++ [x]).drop 1)

@[simp] theorem bufCap_bufPush (v : Byte) (s : State) : bufCap (bufPush v s) = bufCap s := rfl
@[simp] theorem bufCap_accumulate (x : Byte) (s : State) : bufCap (accumulate x s) = bufCap s := rfl
@[simp] theorem bufCap_setLen (l : Half) (s : State) : bufCap (setLen l s) = bufCap s := rfl

/-- `LENH` on a buffer with room: the three cases of R130. -/
theorem stepLenh_eq {x : Byte} {s : State} (hn : s.n < bufCap s) :
    stepLenh x s =
      if s.cfg.maxLen.toNat < (fullLen x s.len).toNat then
        .ok (clear (bumpSkip 1 (bumpOvsz (emit (.oversized s.cls s.id (fullLen x s.len))
          (accumulate x (setLen (fullLen x s.len) (bufPush x s)))))), (bufBytes s ++ [x]).drop 1)
      else if fullLen x s.len = 0#16 then
        .ok (setPhase .ckA (accumulate x (setLen (fullLen x s.len) (bufPush x s))), [])
      else .ok (setPhase .payload (accumulate x (setLen (fullLen x s.len) (bufPush x s))), []) := by
  have hcap : (accumulate x (setLen (fullLen x s.len) (bufPush x s))).n ≤
      bufCap (accumulate x (setLen (fullLen x s.len) (bufPush x s))) := by
    simpa using hn
  have hbytes : bufBytes (accumulate x (setLen (fullLen x s.len) (bufPush x s))) = bufBytes s ++ [x] := by
    rw [← bufBytes_bufPush]
    exact bufBytes_congr rfl rfl
  simp only [stepLenh, bufAppend_ok x hn, accumulate_len, setLen_len]
  rw [raise_ok _ hcap, hbytes]
  rfl

/-- `PAYL` on a buffer with room: the last payload byte or an earlier one (R131). -/
theorem stepPayl_eq {x : Byte} {s : State} (hn : s.n < bufCap s) :
    stepPayl x s =
      if s.n + 1 = 6 + s.len.toNat then .ok (setPhase .ckA (accumulate x (bufPush x s)), [])
      else .ok (accumulate x (bufPush x s), []) := by
  simp only [stepPayl, bufAppend_ok x hn]
  rfl

/-- `CKB` on a buffer with room and a readable checksum byte: accept or reject (R133). -/
theorem stepCkb_eq {x : Byte} {s : State} (hn : s.n < bufCap s) (hr : 6 + s.len.toNat < bufCap s) :
    stepCkb x s =
      if bufByte (bufPush x s) (6 + s.len.toNat) = s.ckA ∧ x = s.ckB then
        .ok (clear (bumpFrame (emit (.frame s.cls s.id s.len
          (bufRange (bufPush x s) 6 (6 + s.len.toNat))) (bufPush x s))), [])
      else
        .ok (clear (bumpSkip 1 (bumpCkerr (emit (.checksumError (bufBytes s ++ [x])) (bufPush x s)))),
          (bufBytes s ++ [x]).drop 1) := by
  have h1 : 6 + (bufPush x s).len.toNat ≤ bufCap (bufPush x s) := by
    simp only [bufPush_len, bufCap_bufPush]; omega
  have h2 : (bufPush x s).n ≤ bufCap (bufPush x s) := by
    simpa using hn
  simp only [stepCkb, bufAppend_ok x hn, bufPush_len, bufPush_ckA, bufPush_ckB,
    bufRead_ok (s := bufPush x s) (i := 6 + s.len.toNat) (by simpa using hr), accept_ok h1, raise_ok _ h2,
    noReplay, bufBytes_bufPush]
  rfl

/-- A stop of `CKB` is a buffer access that does not exist. -/
theorem stepCkb_cap {x : Byte} {s t : State} {r : List Byte} (h : stepCkb x s = .ok (t, r)) :
    s.n < bufCap s ∧ 6 + s.len.toNat < bufCap s := by
  unfold stepCkb at h
  split at h
  · cases h
  · rename_i u hu
    obtain ⟨rfl, hn⟩ := bufAppend_cases hu
    refine ⟨hn, ?_⟩
    split at h
    · cases h
    · rename_i a ha
      simpa using (bufRead_cases ha).2

/-- Everything one `Step` can do (R121). -/
theorem stepByte_cases {x : Byte} {s t : State} {r : List Byte} (h : stepByte x s = .ok (t, r)) :
    StepCase x s t r := by
  unfold stepByte at h
  split at h <;> rename_i hp
  · split at h <;> rename_i hx
    · subst hx
      unfold stepSync1 at h
      split at h
      · cases h
      · obtain ⟨rfl, hn⟩ := bufAppend_cases ‹_›
        cases h
        exact .sync1 hp rfl hn
    · cases h
      exact .skip hp hx
  · split at h <;> rename_i h2
    · subst h2
      unfold stepSync2 at h
      split at h
      · cases h
      · obtain ⟨rfl, hn⟩ := bufAppend_cases ‹_›
        cases h
        exact .sync2 hp rfl hn
    · split at h <;> rename_i h1
      · cases h
        exact .resync1 hp h1
      · cases h
        exact .desync hp h2 h1
  · unfold stepCls at h
    split at h
    · cases h
    · obtain ⟨rfl, hn⟩ := bufAppend_cases ‹_›
      cases h
      exact .cls hp hn
  · unfold stepIdb at h
    split at h
    · cases h
    · obtain ⟨rfl, hn⟩ := bufAppend_cases ‹_›
      cases h
      exact .idb hp hn
  · unfold stepLenl at h
    split at h
    · cases h
    · obtain ⟨rfl, hn⟩ := bufAppend_cases ‹_›
      cases h
      exact .lenl hp hn
  · by_cases hn : s.n < bufCap s
    · rw [stepLenh_eq hn] at h
      split at h <;> rename_i hl
      · cases h
        exact .lenhOversized hp hn hl
      · split at h <;> rename_i h0 <;> cases h
        · exact .lenhEmpty hp hn (by omega) h0
        · exact .lenhPayload hp hn (by omega) h0
    · simp [stepLenh, bufAppend, hn] at h
  · by_cases hn : s.n < bufCap s
    · rw [stepPayl_eq hn] at h
      split at h <;> rename_i he <;> cases h
      · exact .paylLast hp hn he
      · exact .paylMore hp hn he
    · simp [stepPayl, bufAppend, hn] at h
  · unfold stepCka at h
    split at h
    · cases h
    · obtain ⟨rfl, hn⟩ := bufAppend_cases ‹_›
      cases h
      exact .cka hp hn
  · obtain ⟨hn, hr⟩ := stepCkb_cap h
    rw [stepCkb_eq hn hr] at h
    split at h <;> rename_i hc <;> cases h
    · exact .ckbAccept hp hn hr hc.1 hc.2
    · exact .ckbReject hp hn hr hc

/-- A `Step` that does not reject has nothing to replay and holds at most one byte more; a reject hands back one byte
less than the candidate held (R135). -/
theorem stepByte_measure {x : Byte} {s t : State} {r : List Byte} (h : stepByte x s = .ok (t, r)) :
    (r = [] ∧ t.n ≤ s.n + 1) ∨ (t.n = 0 ∧ r.length = s.n) := by
  cases stepByte_cases h <;> simp

/-- `1 + 2 + ... + n`, which is `workBound n`. -/
theorem workBound_succ (n : Nat) : workBound (n + 1) = workBound n + (n + 1) := by
  unfold workBound
  have h : (n + 1) * (n + 1 + 1) = n * (n + 1) + 2 * (n + 1) := by ring
  rw [h, Nat.add_mul_div_left _ _ (by omega)]

theorem workBound_mono {m n : Nat} (h : m ≤ n) : workBound m ≤ workBound n := by
  unfold workBound
  exact Nat.div_le_div_right (Nat.mul_le_mul h (by omega))

/-- How many `Step`s are enough for `p` pending in state `s` (the argument of R135): each pending byte once, and after
each reject one byte less in all. -/
def stepsNeeded (p : List Byte) (s : State) : Nat := p.length + workBound (s.n + p.length - 1)

theorem stepsNeeded_le (p : List Byte) (s : State) : stepsNeeded p s ≤ workBound (s.n + p.length) := by
  unfold stepsNeeded
  cases h : s.n + p.length with
  | zero =>
    have : p.length = 0 := by omega
    simp [this, workBound]
  | succ m => rw [workBound_succ, Nat.add_sub_cancel]; omega

/-- A `Step` uses up at least one of the `Step`s needed. -/
theorem stepsNeeded_step {x : Byte} {p r : List Byte} {s t : State} (h : stepByte x s = .ok (t, r)) :
    stepsNeeded (r ++ p) t + 1 ≤ stepsNeeded (x :: p) s := by
  rcases stepByte_measure h with ⟨rfl, hn⟩ | ⟨hn, hr⟩
  · have := workBound_mono (show t.n + p.length - 1 ≤ s.n + (p.length + 1) - 1 by omega)
    simp only [stepsNeeded, List.nil_append, List.length_cons]
    omega
  · have := stepsNeeded_le (r ++ p) t
    simp only [hn, List.length_append, hr, Nat.zero_add] at this
    simp only [stepsNeeded, List.length_cons, show s.n + (p.length + 1) - 1 = s.n + p.length by omega] at *
    omega

/-- With enough fuel the amount does not matter. -/
theorem drain_enough : ∀ (k j : Nat) (p : List Byte) (s : State),
    stepsNeeded p s ≤ k → stepsNeeded p s ≤ j → drain k p s = drain j p s := by
  intro k
  induction k with
  | zero =>
    intro j p s hk _
    cases p with
    | nil => simp [drain]
    | cons x p => simp [stepsNeeded] at hk
  | succ k ih =>
    intro j p s hk hj
    cases p with
    | nil => simp [drain]
    | cons x p =>
      cases j with
      | zero => simp [stepsNeeded] at hj
      | succ j =>
        simp only [drain]
        cases hs : stepByte x s with
        | error f => rfl
        | ok tr =>
          obtain ⟨t, r⟩ := tr
          have := stepsNeeded_step (p := p) hs
          exact ih j (r ++ p) t (by omega) (by omega)

/-- `Drain([])` (R120). -/
@[simp] theorem drainAll_nil (s : State) : drainAll [] s = .ok s := by
  simp [drainAll, drain]

/-- `Drain(x :: P)` (R120): `Step(x)`, then `Drain` of what it asks to replay and the rest. -/
theorem drainAll_cons (x : Byte) (p : List Byte) (s : State) :
    drainAll (x :: p) s =
      match stepByte x s with
      | .error f => .error f
      | .ok (t, r) => drainAll (r ++ p) t := by
  have hle := stepsNeeded_le (x :: p) s
  unfold drainAll
  cases hk : workBound (s.n + (x :: p).length) with
  | zero =>
    rw [hk] at hle
    simp [stepsNeeded] at hle
  | succ k =>
    simp only [drain]
    cases hs : stepByte x s with
    | error f => rfl
    | ok tr =>
      obtain ⟨t, r⟩ := tr
      have h1 := stepsNeeded_step (p := p) hs
      exact drain_enough _ _ _ _ (by omega) (stepsNeeded_le _ _)

/-- `Drain` of two lists, one after the other. -/
theorem drainAll_append : ∀ (p q : List Byte) (s : State),
    drainAll (p ++ q) s =
      match drainAll p s with
      | .error f => .error f
      | .ok t => drainAll q t := by
  suffices h : ∀ (k : Nat) (p q : List Byte) (s : State), stepsNeeded p s ≤ k →
      drainAll (p ++ q) s = match drainAll p s with
        | .error f => .error f
        | .ok t => drainAll q t from fun p q s => h _ p q s (Nat.le_refl _)
  intro k
  induction k with
  | zero =>
    intro p q s hk
    cases p with
    | nil => simp
    | cons x p => simp [stepsNeeded] at hk
  | succ k ih =>
    intro p q s hk
    cases p with
    | nil => simp
    | cons x p =>
      rw [List.cons_append, drainAll_cons, drainAll_cons]
      cases hs : stepByte x s with
      | error f => rfl
      | ok tr =>
        obtain ⟨t, r⟩ := tr
        have := stepsNeeded_step (p := p) hs
        simpa [List.append_assoc] using ih (r ++ p) q t (by omega)

/-- A single byte that does not reject is a single `Step` (R120 "In the common case"). -/
theorem rxByte_of_step {x : Byte} {s t : State} (h : stepByte x s = .ok (t, [])) : rxByte x s = .ok t := by
  simp [rxByte, drainAll_cons, h]

/-- `RX*` of two byte strings, one after the other (R72). -/
theorem rxBytes_append (p q : List Byte) (s : State) :
    rxBytes (p ++ q) s =
      match rxBytes p s with
      | .error f => .error f
      | .ok t => rxBytes q t := by
  induction p generalizing s with
  | nil => rfl
  | cons x p ih =>
    simp only [List.cons_append, rxBytes]
    cases rxByte x s with
    | error f => rfl
    | ok t => exact ih t

end Sys2Proof.Machine
end

