-- ==== Sys2Proof/Tests/Slice0.lean ====
section
/-! SUPPORT. Tests: ill-formed terms refused, words written out from the spec decoded, the vectors of
`95_test_vectors.md` one step each, and for every statement with hypotheses a witness that meets them. Every expected
value is the spec's (the vector or rule is named), never the model's own answer. -/

namespace Sys2Proof.Tests
open Sys2Proof.Machine

/-- The state after `RX*` of some bytes from reset ("Before is reached from reset by the `RX*` prefix shown"). -/
def st (bs : List Byte) : State :=
  match rxBytes bs State.reset with
  | .ok s => s
  | .error _ => State.reset

/-- The datapath registers as the vectors write them: `PHASE N CLASS ID LEN CK_A CK_B`. -/
structure Line where
  phase : Phase
  n : Nat
  cls : Byte
  id : Byte
  len : Half
  ckA : Byte
  ckB : Byte
  deriving DecidableEq, Repr

/-- The datapath registers of a next state. -/
def regs : Host.Outcome State Fault Refusal → Option Line
  | .next s => some ⟨s.phase, s.n, s.cls, s.id, s.len, s.ckA, s.ckB⟩
  | .fault _ => none
  | .refused _ => none

/-- `BUF` of a next state. -/
def held : Host.Outcome State Fault Refusal → Option (List Byte)
  | .next s => some (bufBytes s)
  | .fault _ => none
  | .refused _ => none

/-- `FRAME CKERR OVSZ SKIP ABORT` of a next state. -/
def counts : Host.Outcome State Fault Refusal → Option (List Word)
  | .next s => some [s.frameCnt, s.ckerrCnt, s.ovszCnt, s.skipCnt, s.abortCnt]
  | .fault _ => none
  | .refused _ => none

/-- `EVQ` of a next state. -/
def events : Host.Outcome State Fault Refusal → Option (List Event)
  | .next s => some s.evq
  | .fault _ => none
  | .refused _ => none

/-- `TXQ` of a next state. -/
def sent : Host.Outcome State Fault Refusal → Option (List Byte)
  | .next s => some s.txq
  | .fault _ => none
  | .refused _ => none

/-- The value an `RD` returned. -/
def returned : Host.Outcome State Fault Refusal → Option Word
  | .next s => s.rdq.getLast?
  | .fault _ => none
  | .refused _ => none

/-- The hunting line of a vector: `PHASE=HUNT1 N=0 CLASS=00 ID=00 LEN=0000 CK=(00,00)`. -/
def hunting : Option Line := some ⟨.hunt1, 0, 0, 0, 0, 0, 0⟩

/-- A block built with `MAX_LEN = 2` (program P7). -/
def small : State := { State.reset with cfg := { maxLen := 2#16 } }

/-! ## Ill-formed terms are refused -/

theorem test_wf_skip : WellFormed (.skip 0xB5) = false := by decide
theorem test_wf_desync_sync2 : WellFormed (.desync 0x62) = false := by decide
theorem test_wf_desync_sync1 : WellFormed (.desync 0xB5) = false := by decide
theorem test_wf_frame_too_long (p : List Byte) (h : p.length = 65536) : WellFormed (.frame 1 2 p 3 4) = false := by
  simp [WellFormed, maxPayload, h]
theorem test_wf_frame_ack_shape : WellFormed (.frame 5 1 [6, 0x8A] 0x98 0xC1) = false := by decide
theorem test_wf_frame_nak_shape : WellFormed (.frame 5 0 [6, 0x8A] 0x97 0xBC) = false := by decide
theorem test_wf_rd_number : WellFormed (.rd 4294967296) = false := by decide
theorem test_wf_wr_number : WellFormed (.wr 4294967296 0) = false := by decide

/-! ## Decoding: words written out from the spec -/

/-- Rows `HUNT1` and `HUNT2` of R94: `B5` = 1011_0101, `62` = 0110_0010. -/
theorem test_decode_hunting :
    decode .hunt1 ⟨.rxByte, [0b10110101]⟩ = .ok .sync1 ∧ decode .hunt1 ⟨.rxByte, [0b01100010]⟩ = .ok (.skip 0x62) ∧
    decode .hunt2 ⟨.rxByte, [0b01100010]⟩ = .ok .sync2 ∧ decode .hunt2 ⟨.rxByte, [0b10110101]⟩ = .ok .resync1 ∧
    decode .hunt2 ⟨.rxByte, [0]⟩ = .ok (.desync 0) := by refine ⟨?_, ?_, ?_, ?_, ?_⟩ <;> rfl

/-- The other seven rows of R94: "Outside the sync hunt the byte value never selects the operation". -/
theorem test_decode_inside_a_candidate :
    decode .cls ⟨.rxByte, [0xB5]⟩ = .ok (.cls 0xB5) ∧ decode .id ⟨.rxByte, [0xB5]⟩ = .ok (.idb 0xB5) ∧
    decode .lenLo ⟨.rxByte, [0xB5]⟩ = .ok (.lenl 0xB5) ∧ decode .lenHi ⟨.rxByte, [0xB5]⟩ = .ok (.lenh 0xB5) ∧
    decode .payload ⟨.rxByte, [0xB5]⟩ = .ok (.payl 0xB5) ∧ decode .ckA ⟨.rxByte, [0xB5]⟩ = .ok (.cka 0xB5) ∧
    decode .ckB ⟨.rxByte, [0xB5]⟩ = .ok (.ckb 0xB5) := by refine ⟨?_, ?_, ?_, ?_, ?_, ?_, ?_⟩ <;> rfl

/-- V17, V18, V19, V20: frames on the wire; a truncated one and a wrong marker are not frames. -/
theorem test_decode_wire :
    decode .hunt1 ⟨.wire, [0xB5, 0x62, 5, 1, 2, 0, 6, 0x8A, 0x98, 0xC1]⟩ = .ok (.ackAck 6 0x8A 0x98 0xC1) ∧
    decode .hunt1 ⟨.wire, [0xB5, 0x62, 5, 0, 2, 0, 6, 0x8A, 0x97, 0xBC]⟩ = .ok (.ackNak 6 0x8A 0x97 0xBC) ∧
    decode .hunt1 ⟨.wire, [0xB5, 0x62, 0x0A, 4, 0, 0, 0x0E, 0x34]⟩ = .ok (.frame 0x0A 4 [] 0x0E 0x34) ∧
    decode .hunt1 ⟨.wire, [0xB5, 0x62, 0xFF, 0xFF, 1, 0, 0xFF, 0xFE, 0xF9]⟩ = .ok (.frame 0xFF 0xFF [0xFF] 0xFE 0xF9) ∧
    decode .hunt1 ⟨.wire, [0xB5, 0x62, 0x0A, 4, 1, 0, 0x0E, 0x34]⟩ = .error .notAFrame ∧
    decode .hunt1 ⟨.wire, [0x62, 0xB5, 0x0A, 4, 0, 0, 0x0E, 0x34]⟩ = .error .notAFrame := by
  refine ⟨?_, ?_, ?_, ?_, ?_, ?_⟩ <;> rfl

/-- R45 and R95: bit 0 `FLUSH`, bit 1 `ABORT`, both `FLUSH` (R174), neither nothing, bits 31..2 ignored. -/
theorem test_decode_cmd :
    decode .hunt1 ⟨.cmd, [1, 0, 0, 0]⟩ = .ok .flush ∧ decode .hunt1 ⟨.cmd, [0b10, 0, 0, 0]⟩ = .ok .abort ∧
    decode .hunt1 ⟨.cmd, [0b11, 0, 0, 0]⟩ = .ok .flush ∧ decode .hunt1 ⟨.cmd, [0xFE, 0xFF, 0xFF, 0xFF]⟩ = .ok .abort ∧
    decode .hunt1 ⟨.cmd, [0xFC, 0xFF, 0xFF, 0xFF]⟩ = .ok (.wr 9 0xFFFFFFFC) := by
  refine ⟨?_, ?_, ?_, ?_, ?_⟩ <;> rfl

/-- The host and port layouts of log entry 2, register and value least significant byte first. -/
theorem test_decode_ports :
    decode .hunt1 ⟨.hostRead, [10, 0, 0, 0]⟩ = .ok (.rd 10) ∧ decode .hunt1 ⟨.hostRead, [0, 1, 0, 0]⟩ = .ok (.rd 256) ∧
    decode .hunt1 ⟨.hostWrite, [9, 0, 0, 0, 2, 0, 0, 0x80]⟩ = .ok (.wr 9 0x80000002) ∧
    decode .hunt1 ⟨.encode, [5, 1, 6, 0x8A]⟩ = .ok (.encode 5 1 [6, 0x8A]) ∧
    decode .ckB ⟨.rx, [0x24]⟩ = .ok (.rx 0x24) ∧ decode .ckB ⟨.reset, []⟩ = .ok .reset := by
  refine ⟨?_, ?_, ?_, ?_, ?_, ?_⟩ <;> rfl

theorem test_decode_rejects_by_name :
    decode .hunt1 ⟨.rxByte, []⟩ = .error .rxByteCount ∧ decode .hunt1 ⟨.hostRead, [1]⟩ = .error .hostReadLayout ∧
    decode .hunt1 ⟨.hostWrite, [1]⟩ = .error .hostWriteLayout ∧ decode .hunt1 ⟨.cmd, [1]⟩ = .error .cmdLayout ∧
    decode .hunt1 ⟨.encode, [1]⟩ = .error .encodeLayout ∧ decode .hunt1 ⟨.reset, [1]⟩ = .error .resetLayout := by
  refine ⟨?_, ?_, ?_, ?_, ?_, ?_⟩ <;> rfl

/-- The table's own words (log entry 3). -/
theorem test_table_words :
    decodeTableWord 8 0xB5 = some .sync1 ∧ decodeTableWord 8 0x62 = some .sync2 ∧
    decodeTableWord 8 0x24 = some (.skip 0x24) ∧ decodeTableWord 8 1 = some .flush ∧
    decodeTableWord 8 2 = some .abort ∧ decodeTableWord 32 1 = some .flush ∧ decodeTableWord 32 2 = some .abort ∧
    decodeTableWord 16 0x1B5 = some .resync1 ∧ decodeTableWord 16 0x8C1 = some (.ckb 0xC1) ∧
    decodeTableWord 64 0x340E0000040A62B5 = some (.frame 0x0A 4 [] 0x0E 0x34) := by
  refine ⟨?_, ?_, ?_, ?_, ?_, ?_, ?_, ?_, ?_, ?_⟩ <;> rfl

/-- A table word placed is what the next step runs, here `FLUSH`, and `SYNC2` after the `B5` it needs (R124). -/
theorem test_with_fetch_word :
    (counts (step ((st [0xB5]).withFetchWord 8 1)) = some [0, 0, 0, 1, 0]) ∧
    (held (step (State.reset.withFetchWord 8 0x62)) = some [0xB5, 0x62]) := by decide

/-! ## One step per vector -/

/-- V33 and V34. -/
theorem test_skip : regs (exec (.skip 0x24) State.reset) = hunting ∧
    counts (exec (.skip 0x62) State.reset) = some [0, 0, 0, 1, 0] := by decide

/-- V35. -/
theorem test_sync1 : regs (exec .sync1 State.reset) = some ⟨.hunt2, 1, 0, 0, 0, 0, 0⟩ ∧
    held (exec .sync1 State.reset) = some [0xB5] := by decide

/-- V36. -/
theorem test_sync2 : regs (exec .sync2 (st [0xB5])) = some ⟨.cls, 2, 0, 0, 0, 0, 0⟩ ∧
    held (exec .sync2 (st [0xB5])) = some [0xB5, 0x62] := by decide

/-- V37. -/
theorem test_resync1 : regs (exec .resync1 (st [0xB5])) = some ⟨.hunt2, 1, 0, 0, 0, 0, 0⟩ ∧
    counts (exec .resync1 (st [0xB5])) = some [0, 0, 0, 1, 0] := by decide

/-- V38. -/
theorem test_desync : regs (exec (.desync 0) (st [0xB5])) = hunting ∧
    counts (exec (.desync 0) (st [0xB5])) = some [0, 0, 0, 2, 0] := by decide

/-- V99: `DESYNC` bumps by 2 from `FFFFFFFE`. -/
theorem test_desync_saturates :
    counts (exec (.desync 0) { st [0xB5] with skipCnt := 0xFFFFFFFE }) = some [0, 0, 0, 0xFFFFFFFF, 0] := by decide

/-- V40. -/
theorem test_cls : regs (exec (.cls 0xB5) (st [0xB5, 0x62])) = some ⟨.id, 3, 0xB5, 0, 0, 0xB5, 0xB5⟩ := by decide

/-- V41. -/
theorem test_idb : regs (exec (.idb 1) (st [0xB5, 0x62, 5])) = some ⟨.lenLo, 4, 5, 1, 0, 6, 0x0B⟩ := by decide

/-- V42. -/
theorem test_lenl : regs (exec (.lenl 2) (st [0xB5, 0x62, 5, 1])) = some ⟨.lenHi, 5, 5, 1, 2, 8, 0x13⟩ := by decide

/-- V44 and V45: no payload, and a length of exactly `MAX_LEN`. -/
theorem test_lenh_accepts :
    regs (exec (.lenh 0) (st [0xB5, 0x62, 0x0A, 4, 0])) = some ⟨.ckA, 6, 0x0A, 4, 0, 0x0E, 0x34⟩ ∧
    regs (exec (.lenh 1) (st [0xB5, 0x62, 2, 0x15, 0])) = some ⟨.payload, 6, 2, 0x15, 256, 0x18, 0x48⟩ := by decide

/-- V46: one more than `MAX_LEN`. -/
theorem test_lenh_rejects :
    events (exec (.lenh 1) (st [0xB5, 0x62, 2, 0x15, 1])) = some [.oversized 2 0x15 257] ∧
    counts (exec (.lenh 1) (st [0xB5, 0x62, 2, 0x15, 1])) = some [0, 0, 1, 6, 0] := by decide

/-- V48 and V49. -/
theorem test_payl :
    regs (exec (.payl 6) (st [0xB5, 0x62, 5, 1, 2, 0])) = some ⟨.payload, 7, 5, 1, 2, 0x0E, 0x29⟩ ∧
    regs (exec (.payl 0x8A) (st [0xB5, 0x62, 5, 1, 2, 0, 6])) = some ⟨.ckA, 8, 5, 1, 2, 0x98, 0xC1⟩ := by decide

/-- V51: a wrong first checksum byte is stored, not yet compared. -/
theorem test_cka : regs (exec (.cka 0x99) (st [0xB5, 0x62, 5, 1, 2, 0, 6, 0x8A])) =
    some ⟨.ckB, 9, 5, 1, 2, 0x98, 0xC1⟩ := by decide

/-- V52. -/
theorem test_ckb_accepts :
    events (exec (.ckb 0xC1) (st [0xB5, 0x62, 5, 1, 2, 0, 6, 0x8A, 0x98])) = some [.frame 5 1 2 [6, 0x8A]] ∧
    counts (exec (.ckb 0xC1) (st [0xB5, 0x62, 5, 1, 2, 0, 6, 0x8A, 0x98])) = some [1, 0, 0, 0, 0] := by decide

/-- V54: the first checksum byte wrong, the second right. -/
theorem test_ckb_rejects :
    events (exec (.ckb 0xC1) (st [0xB5, 0x62, 5, 1, 2, 0, 6, 0x8A, 0x99])) =
      some [.checksumError [0xB5, 0x62, 5, 1, 2, 0, 6, 0x8A, 0x99, 0xC1]] ∧
    counts (exec (.ckb 0xC1) (st [0xB5, 0x62, 5, 1, 2, 0, 6, 0x8A, 0x99])) = some [0, 1, 0, 10, 0] := by decide

/-- V62: a frame inside a frame's payload, the outer frame intact. -/
theorem test_frame : events (exec (.frame 1 2 [0xB5, 0x62, 0x0A, 4, 0, 0, 0x0E, 0x34] 0x72 0x68) State.reset) =
    some [.frame 1 2 8 [0xB5, 0x62, 0x0A, 4, 0, 0, 0x0E, 0x34]] := by decide +kernel

/-- P3: the outer checksum wrong, the inner frame recovered by the replay. -/
theorem test_frame_recovered :
    events (exec (.frame 1 2 [0xB5, 0x62, 0x0A, 4, 0, 0, 0x0E, 0x34] 0x72 0x97) State.reset) =
      some [.checksumError [0xB5, 0x62, 1, 2, 8, 0, 0xB5, 0x62, 0x0A, 4, 0, 0, 0x0E, 0x34, 0x72, 0x97],
        .frame 0x0A 4 0 []] ∧
    counts (exec (.frame 1 2 [0xB5, 0x62, 0x0A, 4, 0, 0, 0x0E, 0x34] 0x72 0x97) State.reset) =
      some [1, 1, 0, 8, 0] := by decide +kernel

/-- V55. -/
theorem test_ack_ack : events (exec (.ackAck 6 0x8A 0x98 0xC1) State.reset) = some [.frame 5 1 2 [6, 0x8A]] := by decide

/-- V18, received. -/
theorem test_ack_nak : events (exec (.ackNak 6 0x8A 0x97 0xBC) State.reset) = some [.frame 5 0 2 [6, 0x8A]] := by decide

/-- V86. -/
theorem test_rd : (List.range 4).map (fun i => returned (exec (.rd i) (st [0xB5, 0x62, 5, 1, 2]))) =
    [some 0x00000015, some 0x00000005, some 0x00020105, some 0x00001308] := by decide

/-- V87, V88 and V89. -/
theorem test_rd_more : returned (exec (.rd 0) (st [0xB5, 0x62, 5, 1, 2, 0])) = some 0x00000036 ∧
    returned (exec (.rd 10) State.reset) = some 0x100 ∧ returned (exec (.rd 11) (st [0x24])) = some 0 ∧
    returned (exec (.rd 9) (st [0x24])) = some 0 := by decide

/-- V90: counters are read-only. -/
theorem test_wr_counter : counts (exec (.wr 7 0) (st [0x24])) = some [0, 0, 0, 1, 0] := by decide

/-- V93 and V94. -/
theorem test_wr_cmd :
    counts (exec (.wr 9 3) (st [0xB5, 0x62, 5, 1, 2, 0, 6])) = some [0, 0, 0, 7, 0] ∧
    regs (exec (.wr 9 0xFFFFFFFC) (st [0xB5, 0x62, 5, 1, 2, 0, 6])) = some ⟨.payload, 7, 5, 1, 2, 0x0E, 0x29⟩ := by
  decide

/-- V91 and V92. -/
theorem test_flush : regs (exec .flush (st [0xB5, 0x62, 5, 1, 2, 0, 6])) = hunting ∧
    counts (exec .flush (st [0xB5, 0x62, 5, 1, 2, 0, 6])) = some [0, 0, 0, 7, 0] ∧
    counts (exec .flush State.reset) = some [0, 0, 0, 0, 0] := by decide

/-- V101. -/
theorem test_flush_saturates :
    counts (exec .flush { st [0xB5, 0x62, 5, 1, 2, 0, 6] with skipCnt := 0xFFFFFFFD }) =
      some [0, 0, 0, 0xFFFFFFFF, 0] := by decide

/-- P2b: the frame inside a stalled candidate is found. -/
theorem test_abort :
    events (exec .abort (st [0xB5, 0x62, 0xB5, 0x62, 5, 0, 2, 0, 6, 0x8A, 0x97, 0xBC])) =
      some [.frame 5 0 2 [6, 0x8A]] ∧
    counts (exec .abort (st [0xB5, 0x62, 0xB5, 0x62, 5, 0, 2, 0, 6, 0x8A, 0x97, 0xBC])) = some [1, 0, 0, 2, 1] := by
  decide

/-- V95 and V96. -/
theorem test_abort_corners : counts (exec .abort (st [0xB5])) = some [0, 0, 0, 1, 1] ∧
    counts (exec .abort State.reset) = some [0, 0, 0, 0, 0] := by decide

/-- V17. -/
theorem test_encode : sent (exec (.encode 5 1 [6, 0x8A]) State.reset) =
    some [0xB5, 0x62, 5, 1, 2, 0, 6, 0x8A, 0x98, 0xC1] := by decide

/-- V32: refused, nothing changes. -/
theorem test_encode_too_long (p : List Byte) (h : p.length = 65536) :
    exec (.encode 7 7 p) State.reset = .next State.reset := by
  simp [exec, execEncode, maxPayload, h]

/-- P2a, its last byte. -/
theorem test_rx : events (exec (.rx 0xC1) (st [0xB5, 0x62, 0xB5, 0x62, 5, 1, 2, 0, 6, 0x8A, 0x98])) =
    some [.oversized 0xB5 0x62 261, .frame 5 1 2 [6, 0x8A]] := by decide

/-- P2c, its last byte. -/
theorem test_rx_ends_a_stall :
    counts (exec (.rx 0x24) (st [0xB5, 0x62, 0xB5, 0x62, 5, 0, 2, 0, 6, 0x8A, 0x97, 0xBC])) = some [1, 1, 0, 3, 0] := by
  decide

/-- V98: `EVQ` is kept, the counters are not. -/
theorem test_reset :
    regs (exec .reset (st [0x24, 0xB5, 0x62, 5, 1, 2, 0, 6, 0x8A, 0x98, 0xC1, 0xB5, 0x62, 5])) = hunting ∧
    counts (exec .reset (st [0x24, 0xB5, 0x62, 5, 1, 2, 0, 6, 0x8A, 0x98, 0xC1, 0xB5, 0x62, 5])) = some [0, 0, 0, 0, 0] ∧
    events (exec .reset (st [0x24, 0xB5, 0x62, 5, 1, 2, 0, 6, 0x8A, 0x98, 0xC1, 0xB5, 0x62, 5])) =
      some [.frame 5 1 2 [6, 0x8A]] := by decide +kernel

/-- V1, V6, V8, V10: checksums. -/
theorem test_checksum : ckSeq [] = (0, 0) ∧ ckSeq [0xFF, 1] = (0, 0xFF) ∧ ckSeq [1, 2, 3, 4] = (0x0A, 0x14) ∧
    ckSeq [5, 1, 2, 0, 6, 0x8A] = (0x98, 0xC1) := by decide

/-- P3 through the reference `Scan`. -/
theorem test_scan : scan 256 [0xB5, 0x62, 1, 2, 8, 0, 0xB5, 0x62, 0x0A, 4, 0, 0, 0x0E, 0x34, 0x72, 0x97] =
    { events := [.checksumError [0xB5, 0x62, 1, 2, 8, 0, 0xB5, 0x62, 0x0A, 4, 0, 0, 0x0E, 0x34, 0x72, 0x97],
        .frame 0x0A 4 0 []], skipped := 8, rest := [] } := by decide +kernel

/-! ## Consistent states of every phase -/

theorem consistent_reset : Consistent State.reset := by constructor <;> decide
theorem consistent_hunt2 : Consistent (st [0xB5]) := by constructor <;> decide
theorem consistent_cls : Consistent (st [0xB5, 0x62]) := by constructor <;> decide
theorem consistent_id : Consistent (st [0xB5, 0x62, 5]) := by constructor <;> decide
theorem consistent_lenLo : Consistent (st [0xB5, 0x62, 5, 1]) := by constructor <;> decide
theorem consistent_lenHi : Consistent (st [0xB5, 0x62, 5, 1, 2]) := by constructor <;> decide
theorem consistent_lenHi_max : Consistent (st [0xB5, 0x62, 2, 0x15, 0]) := by constructor <;> decide
theorem consistent_lenHi_over : Consistent (st [0xB5, 0x62, 2, 0x15, 1]) := by constructor <;> decide
theorem consistent_payload : Consistent (st [0xB5, 0x62, 5, 1, 2, 0]) := by constructor <;> decide
theorem consistent_payload_last : Consistent (st [0xB5, 0x62, 5, 1, 2, 0, 6]) := by constructor <;> decide
theorem consistent_ckA : Consistent (st [0xB5, 0x62, 5, 1, 2, 0, 6, 0x8A]) := by constructor <;> decide
theorem consistent_ckB : Consistent (st [0xB5, 0x62, 5, 1, 2, 0, 6, 0x8A, 0x98]) := by constructor <;> decide
theorem consistent_ckB_bad : Consistent (st [0xB5, 0x62, 5, 1, 2, 0, 6, 0x8A, 0x99]) := by constructor <;> decide
theorem consistent_small : Consistent small := by constructor <;> decide

/-! ## Witnesses: what the statements assume can be met, each clause at its boundary -/

theorem witness_DecodeOfEncodeIsIdentity :
    (WellFormed (.desync 0x61) = true ∧ rowPhase (.desync 0x61) = some Phase.hunt2) ∧
    (WellFormed (.wr 4294967295 0xFFFFFFFF) = true ∧ rowPhase (.wr 4294967295 0xFFFFFFFF) = none) ∧
    (WellFormed (.frame 5 1 [6] 0 0) = true ∧ rowPhase (.frame 5 1 [6] 0 0) = none) := by decide

theorem witness_DecodedOperationsAreWellFormed :
    decode .ckB ⟨.hostRead, [0xFF, 0xFF, 0xFF, 0xFF]⟩ = .ok (.rd 4294967295) ∧ Port.hostRead ≠ Port.cmd ∧
    decode .ckB ⟨.cmd, [0xFD, 0, 0, 0]⟩ = .ok .flush := by
  refine ⟨rfl, by decide, rfl⟩

theorem witness_PhaseAndByteSelectExactlyOneOperation :
    rowPhase (.skip 0x24) = some Phase.hunt1 ∧ WellFormed (.skip 0x24) = true ∧
    encode (.skip 0x24) = { port := .rxByte, bytes := [0x24] } := by decide

theorem witness_ChecksumSeesEverySingleByteChange : (0x00 : Byte) ≠ 0xFF := by decide

theorem witness_SkipCountsOneByteAndChangesNothingElse : State.reset.phase = .hunt1 ∧ (0x62 : Byte) ≠ 0xB5 := by decide

theorem witness_Sync1OpensACandidate :
    State.reset.phase = .hunt1 ∧ State.reset.n < 8 + State.reset.cfg.maxLen.toNat ∧ Consistent State.reset :=
  ⟨by decide, by decide, consistent_reset⟩

theorem witness_Sync2CompletesTheMarker :
    (st [0xB5]).phase = .hunt2 ∧ (st [0xB5]).n < 8 + (st [0xB5]).cfg.maxLen.toNat ∧ Consistent (st [0xB5]) :=
  ⟨by decide, by decide, consistent_hunt2⟩

theorem witness_Resync1CountsTheEarlierByte : (st [0xB5]).phase = .hunt2 ∧ Consistent (st [0xB5]) :=
  ⟨by decide, consistent_hunt2⟩

theorem witness_DesyncDropsBothBytes :
    (st [0xB5]).phase = .hunt2 ∧ (0x00 : Byte) ≠ 0x62 ∧ (0x00 : Byte) ≠ 0xB5 := by decide

theorem witness_ClsStoresTheClass :
    (st [0xB5, 0x62]).phase = .cls ∧ (st [0xB5, 0x62]).n < 8 + (st [0xB5, 0x62]).cfg.maxLen.toNat ∧
    Consistent (st [0xB5, 0x62]) := ⟨by decide, by decide, consistent_cls⟩

theorem witness_IdbStoresTheId :
    (st [0xB5, 0x62, 5]).phase = .id ∧ (st [0xB5, 0x62, 5]).n < 8 + (st [0xB5, 0x62, 5]).cfg.maxLen.toNat ∧
    Consistent (st [0xB5, 0x62, 5]) := ⟨by decide, by decide, consistent_id⟩

theorem witness_LenlStoresTheLowByte :
    (st [0xB5, 0x62, 5, 1]).phase = .lenLo ∧ (st [0xB5, 0x62, 5, 1]).n < 8 + (st [0xB5, 0x62, 5, 1]).cfg.maxLen.toNat ∧
    Consistent (st [0xB5, 0x62, 5, 1]) := ⟨by decide, by decide, consistent_lenLo⟩

/-- The high byte `01` after the low byte `00`: exactly `MAX_LEN` (V45); `00` after it: no payload (V44). -/
theorem witness_LenhAcceptsLengthsUpToMaxLen :
    (st [0xB5, 0x62, 2, 0x15, 0]).phase = .lenHi ∧
    (st [0xB5, 0x62, 2, 0x15, 0]).n < 8 + (st [0xB5, 0x62, 2, 0x15, 0]).cfg.maxLen.toNat ∧
    (st [0xB5, 0x62, 2, 0x15, 0]).len.toNat % 256 + 256 * (1 : Byte).toNat =
      (st [0xB5, 0x62, 2, 0x15, 0]).cfg.maxLen.toNat ∧
    (st [0xB5, 0x62, 2, 0x15, 0]).len.toNat % 256 + 256 * (0 : Byte).toNat = 0 ∧
    Consistent (st [0xB5, 0x62, 2, 0x15, 0]) :=
  ⟨by decide, by decide, by decide, by decide, consistent_lenHi_max⟩

/-- `01` after `01`: `MAX_LEN + 1` (V46). -/
theorem witness_LenhRejectsOversized :
    (st [0xB5, 0x62, 2, 0x15, 1]).phase = .lenHi ∧
    (st [0xB5, 0x62, 2, 0x15, 1]).n < 8 + (st [0xB5, 0x62, 2, 0x15, 1]).cfg.maxLen.toNat ∧
    (st [0xB5, 0x62, 2, 0x15, 1]).len.toNat % 256 + 256 * (1 : Byte).toNat =
      (st [0xB5, 0x62, 2, 0x15, 1]).cfg.maxLen.toNat + 1 :=
  ⟨by decide, by decide, by decide⟩

theorem witness_OversizedReplayHoldsOrSkipsEveryByte :
    Consistent (st [0xB5, 0x62, 2, 0x15, 1]) ∧ (st [0xB5, 0x62, 2, 0x15, 1]).phase = .lenHi ∧
    (st [0xB5, 0x62, 2, 0x15, 1]).cfg.maxLen.toNat <
      (st [0xB5, 0x62, 2, 0x15, 1]).len.toNat % 256 + 256 * (1 : Byte).toNat :=
  ⟨consistent_lenHi_over, by decide, by decide⟩

/-- A payload byte that is not the last (V48) and the last one (V49). -/
theorem witness_PaylStoresAPayloadByte :
    ((st [0xB5, 0x62, 5, 1, 2, 0]).phase = .payload ∧ (st [0xB5, 0x62, 5, 1, 2, 0]).n + 1 ≠ 6 + 2 ∧
      (st [0xB5, 0x62, 5, 1, 2, 0]).n < 8 + (st [0xB5, 0x62, 5, 1, 2, 0]).cfg.maxLen.toNat ∧
      Consistent (st [0xB5, 0x62, 5, 1, 2, 0])) ∧
    ((st [0xB5, 0x62, 5, 1, 2, 0, 6]).phase = .payload ∧ (st [0xB5, 0x62, 5, 1, 2, 0, 6]).n + 1 = 6 + 2 ∧
      (st [0xB5, 0x62, 5, 1, 2, 0, 6]).n < 8 + (st [0xB5, 0x62, 5, 1, 2, 0, 6]).cfg.maxLen.toNat ∧
      Consistent (st [0xB5, 0x62, 5, 1, 2, 0, 6])) :=
  ⟨⟨by decide, by decide, by decide, consistent_payload⟩, ⟨by decide, by decide, by decide, consistent_payload_last⟩⟩

theorem witness_CkaStoresTheFirstChecksumByte :
    (st [0xB5, 0x62, 5, 1, 2, 0, 6, 0x8A]).phase = .ckA ∧
    (st [0xB5, 0x62, 5, 1, 2, 0, 6, 0x8A]).n < 8 + (st [0xB5, 0x62, 5, 1, 2, 0, 6, 0x8A]).cfg.maxLen.toNat ∧
    Consistent (st [0xB5, 0x62, 5, 1, 2, 0, 6, 0x8A]) := ⟨by decide, by decide, consistent_ckA⟩

/-- V52. -/
theorem witness_CkbAcceptsAMatchingChecksum :
    Consistent (st [0xB5, 0x62, 5, 1, 2, 0, 6, 0x8A, 0x98]) ∧
    (st [0xB5, 0x62, 5, 1, 2, 0, 6, 0x8A, 0x98]).phase = .ckB ∧
    bufByte (st [0xB5, 0x62, 5, 1, 2, 0, 6, 0x8A, 0x98]) (6 + 2) = 0x98 ∧
    (st [0xB5, 0x62, 5, 1, 2, 0, 6, 0x8A, 0x98]).ckA = 0x98 ∧
    (0xC1 : Byte) = (st [0xB5, 0x62, 5, 1, 2, 0, 6, 0x8A, 0x98]).ckB :=
  ⟨consistent_ckB, by decide, by decide, by decide, by decide⟩

/-- V53 (the second byte wrong) and V54 (the first). -/
theorem witness_CkbRejectsAMismatch :
    (Consistent (st [0xB5, 0x62, 5, 1, 2, 0, 6, 0x8A, 0x98]) ∧
      (st [0xB5, 0x62, 5, 1, 2, 0, 6, 0x8A, 0x98]).phase = .ckB ∧
      (0xC0 : Byte) ≠ (st [0xB5, 0x62, 5, 1, 2, 0, 6, 0x8A, 0x98]).ckB) ∧
    (Consistent (st [0xB5, 0x62, 5, 1, 2, 0, 6, 0x8A, 0x99]) ∧
      (st [0xB5, 0x62, 5, 1, 2, 0, 6, 0x8A, 0x99]).phase = .ckB ∧
      bufByte (st [0xB5, 0x62, 5, 1, 2, 0, 6, 0x8A, 0x99]) (6 + 2) ≠
        (st [0xB5, 0x62, 5, 1, 2, 0, 6, 0x8A, 0x99]).ckA) :=
  ⟨⟨consistent_ckB, by decide, by decide⟩, ⟨consistent_ckB_bad, by decide, by decide⟩⟩

theorem witness_UnselectedOperationsAreRefused :
    rowPhase (.cls 5) = some Phase.cls ∧ Phase.cls ≠ State.reset.phase := by decide

theorem witness_RxIsDrainOfOneByte : Consistent (st [0xB5, 0x62, 5, 1, 2, 0, 6, 0x8A, 0x99]) := consistent_ckB_bad

theorem witness_ChunkingIsInvisible : rxBytes [0x24, 0xB5] State.reset = .ok (st [0x24, 0xB5]) := by rfl

theorem witness_ReceivePathIsScan : Consistent (st [0xB5, 0x62, 5, 1, 2, 0, 6, 0x8A, 0x99]) := consistent_ckB_bad

theorem witness_DroppingOneByteOrTwoIsTheSame : State.reset.phase = .hunt1 := by rfl

theorem witness_EveryReceivedByteIsAccountedFor :
    Consistent State.reset ∧ rxBytes [0x24, 0xB5] State.reset = .ok (st [0x24, 0xB5]) ∧
    (st [0x24, 0xB5]).skipCnt.toNat < 4294967295 := ⟨consistent_reset, by rfl, by decide⟩

theorem witness_FlushAndAbortKeepTheByteAccount :
    Consistent (st [0xB5]) ∧
    (∃ t, exec .flush (st [0xB5]) = .next t ∧ t.skipCnt.toNat < 4294967295) ∧
    (∃ t, exec .abort (st [0xB5]) = .next t ∧ t.skipCnt.toNat < 4294967295) :=
  ⟨consistent_hunt2, ⟨_, by rfl, by decide⟩, ⟨_, by rfl, by decide⟩⟩

/-- No payload, and a payload of exactly `MAX_LEN` (P7, `MAX_LEN = 2`). -/
theorem witness_RoundTripOfEncodedFrames :
    Consistent small ∧ small.n = 0 ∧ ([] : List Byte).length ≤ small.cfg.maxLen.toNat ∧
    ([1, 2] : List Byte).length = small.cfg.maxLen.toNat := ⟨consistent_small, by decide, by decide, by decide⟩

/-- P7: length 2 and length 3 with `MAX_LEN = 2`. -/
theorem witness_FrameIsReceived :
    Consistent small ∧ small.n = 0 ∧ ([1, 2] : List Byte).length ≤ small.cfg.maxLen.toNat ∧
    small.cfg.maxLen.toNat < ([1, 2, 3] : List Byte).length ∧ ([1, 2, 3] : List Byte).length ≤ 65535 :=
  ⟨consistent_small, by decide, by decide, by decide, by decide⟩

theorem witness_AcknowledgementsAreReceived :
    Consistent small ∧ small.n = 0 ∧ 2 ≤ small.cfg.maxLen.toNat := ⟨consistent_small, by decide, by decide⟩

/-- V67 to V82: class, id, first payload byte, last checksum byte. -/
theorem witness_SingleByteCorruptionIsReported :
    Consistent State.reset ∧ State.reset.n = 0 ∧ ([6, 0x8A] : List Byte).length ≤ State.reset.cfg.maxLen.toNat ∧
    (encodeFrame 5 1 [6, 0x8A])[2]? ≠ some 4 ∧ (encodeFrame 5 1 [6, 0x8A])[3]? ≠ some 0 ∧
    (encodeFrame 5 1 [6, 0x8A])[6]? ≠ some 7 ∧ (encodeFrame 5 1 [6, 0x8A])[7 + 2]? ≠ some 0xC0 :=
  ⟨consistent_reset, by decide, by decide, by decide, by decide, by decide, by decide⟩

/-- Garbage that ends in `B5`. -/
theorem witness_ResynchronisationOverGarbage :
    Consistent State.reset ∧ State.reset.n = 0 ∧ ([6] : List Byte).length ≤ State.reset.cfg.maxLen.toNat ∧
    ¬ [0xB5, 0x62] <:+: ([0x24, 0x62, 0xB5] : List Byte) := ⟨consistent_reset, by decide, by decide, by decide⟩

/-- `N` at the end of its range, and the first number above 10. -/
theorem witness_RdReturnsTheRegister :
    ({ State.reset with n := 264 } : State).n = 8 + State.reset.cfg.maxLen.toNat ∧ (10 : Nat) < 11 := by decide

/-- The values 0, 1, 2 and one with every other bit set. -/
theorem witness_WrActsOnlyOnCmd :
    ((8 : Nat) ≠ 9 ∧ (10 : Nat) ≠ 9) ∧
    ((0xFFFFFFFC : Word).getLsbD 0 = false ∧ (0xFFFFFFFC : Word).getLsbD 1 = false) ∧
    ((1 : Word).getLsbD 0 = true ∧ (1 : Word).getLsbD 1 = false) ∧
    ((2 : Word).getLsbD 0 = false ∧ (2 : Word).getLsbD 1 = true) ∧
    ((0xFFFFFFFF : Word).getLsbD 0 = true ∧ (0xFFFFFFFF : Word).getLsbD 1 = true) := by decide

theorem witness_BothCommandBitsAreFlushAlone : (3 : Word).getLsbD 0 = true ∧ (3 : Word).getLsbD 1 = true := by decide

theorem witness_FlushDiscardsTheCandidate : Consistent State.reset ∧ State.reset.n = 0 := ⟨consistent_reset, rfl⟩

theorem witness_AbortRescansAllButTheFirstByte :
    State.reset.n = 0 ∧ 0 < (st [0xB5]).n ∧ (st [0xB5]).n ≤ 8 + (st [0xB5]).cfg.maxLen.toNat ∧ Consistent (st [0xB5]) :=
  ⟨rfl, by decide, by decide, consistent_hunt2⟩

theorem witness_AbortShortensTheCandidate : 0 < (st [0xB5]).n ∧ ∃ t, exec .abort (st [0xB5]) = .next t :=
  ⟨by decide, _, by rfl⟩

theorem witness_EncodeSendsTheFrame : (List.replicate 65535 (0xAA : Byte)).length = 65535 ∧
    (List.replicate 65536 (0xAA : Byte)).length = 65535 + 1 := ⟨List.length_replicate, List.length_replicate⟩

/-- The state of the receive-byte request `B5`, presented at reset. -/
def hearing : State := { State.reset with input := [[], [⟨.rx, [0xB5]⟩, ⟨.encode, [5, 1]⟩, ⟨.reset, []⟩], [⟨.cmd, [1, 0, 0, 0]⟩]] }

theorem consistent_hearing : Consistent hearing := by constructor <;> decide

theorem witness_StepKeepsConsistency : Consistent hearing ∧ ∃ t, step hearing = .next t :=
  ⟨consistent_hearing, _, by rfl⟩

theorem witness_StepNeverFaultsFromConsistentState : Consistent hearing := consistent_hearing

theorem witness_EveryOperationCompletes :
    Consistent (st [0xB5]) ∧ Performs .resync1 (st [0xB5]) ∧ Performs (.wr 9 3) (st [0xB5]) :=
  ⟨consistent_hunt2, ⟨by decide, by decide⟩, ⟨by decide, by decide⟩⟩

theorem witness_OperationsKeepTheCanonicalBuffer :
    Memory.wf (st [0xB5]).buf ∧ ∃ t, exec .sync2 (st [0xB5]) = .next t := ⟨by decide, _, by rfl⟩

theorem witness_OnlyResetLowersACounter :
    Instr.flush ≠ .reset ∧ ∃ t, exec .flush (st [0xB5]) = .next t := ⟨by decide, _, by rfl⟩

theorem witness_OutputHistoriesOnlyGrow : ∃ t, exec .reset (st [0xB5]) = .next t := ⟨_, by rfl⟩

theorem witness_ReceiveOperationsFrame :
    (∀ c d p, Instr.wr 9 1 ≠ .encode c d p) ∧ (∀ r, Instr.wr 9 1 ≠ .rd r) ∧ Instr.wr 9 1 ≠ .reset ∧
    (∃ t, exec (.wr 9 1) (st [0xB5]) = .next t) ∧ Instr.rx 0 ≠ .abort ∧ (∀ v, Instr.rx 0 ≠ .wr 9 v) ∧
    (∃ t, exec (.rx 0) (st [0xB5]) = .next t) :=
  ⟨by simp, by simp, by decide, ⟨_, by rfl⟩, by decide, by simp, ⟨_, by rfl⟩⟩

theorem witness_CountersCountEvents :
    Instr.ckb 0xC1 ≠ .reset ∧ ∃ t, exec (.ckb 0xC1) (st [0xB5, 0x62, 5, 1, 2, 0, 6, 0x8A, 0x98]) = .next t :=
  ⟨by decide, _, by rfl⟩

/-- Of the three operations presented at one instant, after one that presents none, `RESET` is taken first (R9) and the
other two are left. -/
theorem witness_StepRunsTheDecodedOperation :
    (∀ e ∈ [([] : Instant)], e = []) ∧
    hearing.input = [[]] ++ [⟨.rx, [0xB5]⟩, ⟨.encode, [5, 1]⟩, ⟨.reset, []⟩] :: [[⟨.cmd, [1, 0, 0, 0]⟩]] ∧
    pickFirst hearing.phase [⟨.rx, [0xB5]⟩, ⟨.encode, [5, 1]⟩, ⟨.reset, []⟩] =
      some (⟨.reset, []⟩, [⟨.rx, [0xB5]⟩, ⟨.encode, [5, 1]⟩]) ∧
    decode hearing.phase ⟨.reset, []⟩ = .ok .reset := by
  decide

/-- Bytes on the wire that are no frame, alone at their instant. -/
def noise : State := { State.reset with input := [[⟨.wire, [0xB5, 0x24]⟩], [⟨.hostRead, [1]⟩]] }

/-- The two clauses: received bytes (V38's), and a host read of one byte. -/
theorem witness_RequestsThatNameNoOperationStopNothing :
    (noise.input = [] ++ [⟨.wire, [0xB5, 0x24]⟩] :: [[⟨.hostRead, [1]⟩]] ∧
      pickFirst noise.phase [⟨.wire, [0xB5, 0x24]⟩] = some (⟨.wire, [0xB5, 0x24]⟩, []) ∧
      decode noise.phase ⟨.wire, [0xB5, 0x24]⟩ = .error .notAFrame) ∧
    ((afterFetch noise).input = [] ++ [⟨.hostRead, [1]⟩] :: [] ∧
      pickFirst (afterFetch noise).phase [⟨.hostRead, [1]⟩] = some (⟨.hostRead, [1]⟩, []) ∧
      decode (afterFetch noise).phase ⟨.hostRead, [1]⟩ = .error .hostReadLayout ∧
      ¬(Port.hostRead = .rxByte ∨ Port.hostRead = .wire ∨ Port.hostRead = .rx)) := by
  decide

/-- V38 on the wire port: both bytes are skipped, and nothing stops. -/
theorem test_noise_is_received : counts (step noise) = some [0, 0, 0, 2, 0] := by decide

theorem witness_IdleBlockKeepsAllState : ∀ now ∈ ({ State.reset with input := [[], []] } : State).input, now = [] := by
  decide

/-- `RESET` is picked from behind a byte; of two bytes the first listed; each clause at one value of its range. -/
theorem witness_CoincidentOperationsTakeTheOrderOfR9 :
    ((8 : Nat) ≠ 9 ∧ (10 : Nat) ≠ 9) ∧
    ((3 : Word).getLsbD 0 = true ∧ (2 : Word).getLsbD 0 = false ∧ (2 : Word).getLsbD 1 = true ∧
      (4 : Word).getLsbD 0 = false ∧ (4 : Word).getLsbD 1 = false) ∧
    rowPhase (.ckb 0xC1) ≠ none ∧
    decode .hunt1 ⟨.rx, [0xB5]⟩ = .ok (.rx 0xB5) ∧ decode .hunt1 ⟨.wire, [0xB5, 0x24]⟩ = .error .notAFrame ∧
    decode .hunt1 ⟨.hostRead, [1]⟩ = .error .hostReadLayout ∧
    pickFirst .hunt1 [⟨.rx, [0xB5]⟩, ⟨.reset, []⟩] = some (⟨.reset, []⟩, [⟨.rx, [0xB5]⟩]) ∧
    pickFirst .hunt1 [⟨.rx, [0xB5]⟩, ⟨.rx, [0x62]⟩] = some (⟨.rx, [0xB5]⟩, [⟨.rx, [0x62]⟩]) := by
  decide

end Sys2Proof.Tests
end

section
/-! Proofs about the byte stream as a whole (`20_memory.md` R72). -/

namespace Sys2Proof.Machine

/-- `RX*` of a list (R97) is `Drain` of the whole list (R120): the replay of one byte ends before the next byte is
taken, whether the later bytes are already pending or not. -/
theorem rxBytes_eq_drainAll (p : List Byte) (s : State) : rxBytes p s = drainAll p s := by
  induction p generalizing s with
  | nil => rw [rxBytes, drainAll_nil]
  | cons x p ih =>
    rw [← List.singleton_append, drainAll_append, List.singleton_append, rxBytes, rxByte]
    cases drainAll [x] s with
    | error f => rfl
    | ok t => exact ih t

/-- Settles O28: the whole stream is one `Drain` by `rxBytes_eq_drainAll`, and is cut at any place by
`rxBytes_append`. -/
theorem chunkingIsInvisible : Obligations.ChunkingIsInvisible := by
  intro p q s
  refine ⟨rxBytes_eq_drainAll (p ++ q) s, fun t ht => ?_⟩
  rw [rxBytes_append, ht]

end Sys2Proof.Machine
end

section
/-! Proofs about the checksum (`40_checksum.md` R110 to R116): `CkSeq` byte by byte, and its closed form. -/

namespace Sys2Proof.Machine

/-- Appending a byte to the covered bytes is one more `CkStep` (R110, R111). -/
theorem ckSeq_concat (s : List Byte) (x : Byte) : ckSeq (s ++ [x]) = ckStep (ckSeq s) x := by
  simp [ckSeq]

/-- R114's sum for the second accumulator, before the reduction mod 256: of `n` bytes, byte `i` has the weight
`n - i`. -/
def weightedSum (s : List Byte) : Nat :=
  (s.zipIdx.map (fun xi => (s.length - xi.2) * xi.1.toNat)).sum

@[simp] theorem weightedSum_nil : weightedSum [] = 0 := rfl

/-- The first byte has the full weight; in the rest length and index both go down by one, so each weight stays. -/
theorem weightedSum_cons (x : Byte) (s : List Byte) :
    weightedSum (x :: s) = (s.length + 1) * x.toNat + weightedSum s := by
  simp [weightedSum, List.zipIdx_succ, Function.comp_def]

/-- One more byte at the end raises every weight by one: the whole plain sum, the new byte included, is added. -/
theorem weightedSum_concat (s : List Byte) (x : Byte) :
    weightedSum (s ++ [x]) = weightedSum s + ((s.map BitVec.toNat).sum + x.toNat) := by
  induction s with
  | nil => simp [weightedSum_cons]
  | cons y s ih =>
    rw [List.cons_append, weightedSum_cons, weightedSum_cons, ih, List.length_append, List.length_singleton,
      List.map_cons, List.sum_cons]
    ring

/-- Settles O5: by induction on the last byte, since `CkStep` adds the new plain sum to the second accumulator, which
is what `weightedSum` grows by. -/
theorem checksumClosedForm : Obligations.ChecksumClosedForm := by
  intro s
  change _ ∧ (ckSeq s).2.toNat = weightedSum s % 256
  induction s using List.reverseRecOn with
  | nil => decide
  | append_singleton s x ih =>
    obtain ⟨hfirst, hsecond⟩ := ih
    rw [ckSeq_concat, weightedSum_concat]
    simp only [ckStep, BitVec.toNat_add, hfirst, hsecond, List.map_append, List.map_singleton, List.sum_append,
      List.sum_singleton]
    omega

end Sys2Proof.Machine
end

section
/-! Proofs about consistent states (`10_state.md` R31, R32, `20_memory.md` R62): what `PHASE` says of `N`, what `BUF`
holds, and the room there is for the next byte. -/

namespace Sys2Proof.Machine

/-- From the sixth byte on, `PHASE` compares `N` with the end of the payload (R31). -/
theorem phaseOf_of_six_le {n : Nat} (len : Nat) (h : 6 ≤ n) :
    phaseOf n len = if n < 6 + len then .payload else if n = 6 + len then .ckA else .ckB := by
  obtain ⟨m, rfl⟩ := Nat.exists_eq_add_of_le' h
  rfl

/-- `phaseOf` read backwards: what each phase says of `N` (R31). -/
def PhaseRange (n len : Nat) : Phase → Prop
  | .hunt1 => n = 0
  | .hunt2 => n = 1
  | .cls => n = 2
  | .id => n = 3
  | .lenLo => n = 4
  | .lenHi => n = 5
  | .payload => 6 ≤ n ∧ n < 6 + len
  | .ckA => 6 ≤ n ∧ n = 6 + len
  | .ckB => 6 ≤ n ∧ 6 + len < n

theorem phaseRange_phaseOf (n len : Nat) : PhaseRange n len (phaseOf n len) := by
  rcases Nat.lt_or_ge n 6 with h | h
  · interval_cases n <;> exact rfl
  · rw [phaseOf_of_six_le len h]
    split
    · exact ⟨h, ‹_›⟩
    · split
      · exact ⟨h, ‹_›⟩
      · exact ⟨h, by omega⟩

/-- What the phase of a consistent state says of `N`. -/
theorem Consistent.phaseRange {s : State} {ph : Phase} (hs : Consistent s) (hp : s.phase = ph) :
    PhaseRange s.n s.len.toNat ph := by
  rw [← hp, hs.phase]
  exact phaseRange_phaseOf _ _

/-- In phase `CK_B` everything but the second checksum byte is in. -/
theorem Consistent.n_of_ckB {s : State} (hs : Consistent s) (hp : s.phase = .ckB) : s.n = 7 + s.len.toNat := by
  obtain ⟨h6, hlt⟩ := hs.phaseRange hp
  have := hs.pending h6
  omega

/-- There is always room for one byte more (R62). -/
theorem Consistent.room {s : State} (hs : Consistent s) : s.n < bufCap s := by
  have := hs.bound
  show s.n < 8 + s.cfg.maxLen.toNat
  omega

/-- With the header in, the first checksum byte has a location. -/
theorem Consistent.ckA_room {s : State} (hs : Consistent s) (h : 6 ≤ s.n) : 6 + s.len.toNat < bufCap s := by
  have := hs.lenBound h
  show 6 + s.len.toNat < 8 + s.cfg.maxLen.toNat
  omega

theorem bufBytes_of_n_zero {s : State} (hn : s.n = 0) : bufBytes s = [] := by
  simp [bufBytes, bufRange, hn]

theorem Consistent.bufBytes_of_n_one {s : State} (hs : Consistent s) (hn : s.n = 1) : bufBytes s = [sync1Byte] := by
  simp [bufBytes, bufRange, hn, hs.sync1]

theorem Consistent.bufBytes_of_n_five {s : State} (hs : Consistent s) (hn : s.n = 5) :
    bufBytes s = [sync1Byte, sync2Byte, s.cls, s.id, bufByte s 4] := by
  simp [bufBytes, bufRange, hn, List.range', hs.sync1, hs.sync2, hs.cls, hs.id]

/-- The head of a candidate of at least two bytes is the sync marker. -/
theorem Consistent.bufBytes_marker {s : State} (hs : Consistent s) (hn : 2 ≤ s.n) :
    bufBytes s = sync1Byte :: sync2Byte :: bufRange s 2 s.n := by
  rw [bufBytes, ← bufRange_append s (Nat.zero_le 2) hn]
  simp [bufRange, List.range', hs.sync1 (by omega), hs.sync2 hn]

/-- The covered header bytes of a candidate whose whole header is in. -/
theorem Consistent.bufRange_header {s : State} (hs : Consistent s) {hi : Nat} (hn : 6 ≤ s.n) (hh : 6 ≤ hi) :
    bufRange s 2 hi = s.cls :: s.id :: bufByte s 4 :: bufByte s 5 :: bufRange s 6 hi := by
  have hc : s.cls = bufByte s 2 := by simpa [show 3 ≤ s.n by omega] using hs.cls
  have hi' : s.id = bufByte s 3 := by simpa [show 4 ≤ s.n by omega] using hs.id
  rw [← bufRange_append s (by omega : 2 ≤ 6) hh, hc, hi']
  simp [bufRange, List.range']

/-- Once the header is in, `LEN` is the length field of `BUF`. -/
theorem Consistent.len_of_six_le {s : State} (hs : Consistent s) (hn : 6 ≤ s.n) :
    s.len.toNat = frameLen (bufByte s 4) (bufByte s 5) := by
  simpa [hn] using hs.len

/-- Before the class byte nothing has been accumulated (R32). -/
theorem Consistent.ck_zero {s : State} (hs : Consistent s) (hn : s.n ≤ 2) : s.ckA = 0#8 ∧ s.ckB = 0#8 := by
  have h := hs.ck
  rw [show bufRange s 2 (min s.n (6 + s.len.toNat)) = [] by
    rw [← List.length_eq_zero_iff, bufRange_length]; omega] at h
  exact Prod.mk.inj h

/-- The emptied block is consistent (R33). -/
theorem consistent_clear (s : State) : Consistent (clear s) where
  cells := rfl
  bound := Nat.zero_le _
  phase := rfl
  pending h := absurd h (by simp)
  lenBound h := absurd h (by simp)
  sync1 h := absurd h (by simp)
  sync2 h := absurd h (by simp)
  cls := rfl
  id := rfl
  len := rfl
  ck := rfl

/-- Consistency does not look at the counters. -/
theorem Consistent.bumpSkip {s : State} (hs : Consistent s) (k : Nat) : Consistent (bumpSkip k s) :=
  ⟨hs.cells, hs.bound, hs.phase, hs.pending, hs.lenBound, hs.sync1, hs.sync2, hs.cls, hs.id, hs.len, hs.ck⟩

end Sys2Proof.Machine
end

section
/-! Proofs about one `Step` from a consistent state (`41_decoder.md` R121 to R134): a byte taken into the candidate
keeps R31, R32 and R62, and so does every `Step`, which always runs. -/

namespace Sys2Proof.Machine

/-- What `BUF` holds after `Append`, location by location. -/
theorem appendsByte_of_buf {x : Byte} {s t : State} (hbuf : t.buf = (bufPush x s).buf) (hn : t.n = s.n + 1) :
    AppendsByte x s t :=
  ⟨hn, (bufByte_congr hbuf _).trans (bufByte_bufPush_same s x),
    fun a ha => (bufByte_congr hbuf a).trans (bufByte_bufPush_other s x ha)⟩

section
variable {s : State} (x : Byte)

theorem stepSync1_eq (hn : s.n < bufCap s) : stepSync1 s = .ok (setPhase .hunt2 (bufPush sync1Byte s), []) := by
  rw [stepSync1, bufAppend_ok _ hn]

theorem stepSync2_eq (hn : s.n < bufCap s) : stepSync2 s = .ok (setPhase .cls (bufPush sync2Byte s), []) := by
  rw [stepSync2, bufAppend_ok _ hn]

theorem stepCls_eq (hn : s.n < bufCap s) :
    stepCls x s = .ok (setPhase .id (accumulate x (setCls x (bufPush x s))), []) := by
  rw [stepCls, bufAppend_ok _ hn]

theorem stepIdb_eq (hn : s.n < bufCap s) :
    stepIdb x s = .ok (setPhase .lenLo (accumulate x (setId x (bufPush x s))), []) := by
  rw [stepIdb, bufAppend_ok _ hn]

theorem stepLenl_eq (hn : s.n < bufCap s) :
    stepLenl x s = .ok (setPhase .lenHi (accumulate x (setLen (x.setWidth 16) (bufPush x s))), []) := by
  rw [stepLenl, bufAppend_ok _ hn]

theorem stepCka_eq (hn : s.n < bufCap s) : stepCka x s = .ok (setPhase .ckB (bufPush x s), []) := by
  rw [stepCka, bufAppend_ok _ hn]

end

/-- One byte taken into the candidate, field by field: `Append` to the buffer, and each register as R31 and R32 want it
with one byte more; nothing is counted or put out. -/
structure TakesByte (x : Byte) (s t : State) : Prop where
  buf : t.buf = (bufPush x s).buf
  n : t.n = s.n + 1
  phase : t.phase = phaseOf (s.n + 1) t.len.toNat
  sync1 : s.n = 0 → x = sync1Byte
  sync2 : s.n = 1 → x = sync2Byte
  cls : t.cls = if s.n = 2 then x else s.cls
  id : t.id = if s.n = 3 then x else s.id
  len : t.len.toNat = if s.n = 4 then x.toNat else if s.n = 5 then frameLen (bufByte s 4) x else s.len.toNat
  ck : (t.ckA, t.ckB) =
    if 2 ≤ s.n ∧ s.n < 6 + t.len.toNat then ckStep (s.ckA, s.ckB) x else (s.ckA, s.ckB)
  lenBound : s.n = 5 → t.len.toNat ≤ s.cfg.maxLen.toNat
  pending : 6 ≤ s.n → s.n ≤ 6 + s.len.toNat
  counters : SameCounters s t
  outputs : SameOutputs s t
  outside : SameOutside s t

section
variable {x : Byte} {s t : State}

theorem TakesByte.bufBytes (h : TakesByte x s t) : bufBytes t = bufBytes s ++ [x] :=
  (bufBytes_congr h.buf h.n).trans (bufBytes_bufPush s x)

theorem TakesByte.bufByte_new (h : TakesByte x s t) : bufByte t s.n = x :=
  (appendsByte_of_buf h.buf h.n).2.1

theorem TakesByte.bufByte_old (h : TakesByte x s t) {a : Nat} (ha : a ≠ s.n) : bufByte t a = bufByte s a :=
  (appendsByte_of_buf h.buf h.n).2.2 a ha

theorem TakesByte.bufRange_old (h : TakesByte x s t) {lo hi : Nat} (hh : hi ≤ s.n) :
    bufRange t lo hi = bufRange s lo hi :=
  (bufRange_congr h.buf lo hi).trans (bufRange_bufPush_low s x hh)

theorem TakesByte.len_of_six_le (h : TakesByte x s t) (hn : 6 ≤ s.n) : t.len.toNat = s.len.toNat := by
  have := h.len
  rwa [if_neg (by omega), if_neg (by omega)] at this

/-- The accumulators stay `CkSeq` of the covered bytes: from the class byte to the last payload byte the new byte is
one more covered byte, and before and after it the covered bytes are the same. -/
theorem TakesByte.ck_covered (h : TakesByte x s t) (hs : Consistent s) :
    (t.ckA, t.ckB) = ckSeq (bufRange t 2 (min t.n (6 + t.len.toNat))) := by
  rw [h.ck, hs.ck, h.n]
  split
  next hc =>
    obtain ⟨h2, hlt⟩ := hc
    have hold : min s.n (6 + s.len.toNat) = s.n := by
      by_cases h6 : 6 ≤ s.n
      · have := h.len_of_six_le h6; omega
      · omega
    rw [hold, show min (s.n + 1) (6 + t.len.toNat) = s.n + 1 by omega, bufRange_succ t h2, h.bufByte_new,
      h.bufRange_old (Nat.le_refl _), ckSeq_concat]
  next hc =>
    by_cases h2 : 2 ≤ s.n
    · have := h.len_of_six_le (by omega)
      rw [show min (s.n + 1) (6 + t.len.toNat) = 6 + s.len.toNat by omega,
        show min s.n (6 + s.len.toNat) = 6 + s.len.toNat by omega, h.bufRange_old (by omega)]
    · have hnil : ∀ (u : State) (k : Nat), k ≤ 2 → bufRange u 2 k = [] := fun u k hk => by
        rw [← List.length_eq_zero_iff, bufRange_length]; omega
      rw [hnil _ _ (by omega), hnil _ _ (by omega)]

/-- Taking a byte into the candidate keeps R31, R32 and R62. -/
theorem Consistent.takesByte (hs : Consistent s) (h : TakesByte x s t) : Consistent t where
  cells := by
    rw [h.buf, h.n]
    exact memStore_range x hs.cells
  bound := by
    rw [h.n, h.outside.2]
    by_cases h6 : 6 ≤ s.n
    · have := h.pending h6
      have := hs.lenBound h6
      omega
    · omega
  phase := by rw [h.n]; exact h.phase
  pending hn := by
    have htn := h.n
    by_cases h6 : 6 ≤ s.n
    · have := h.pending h6
      have := h.len_of_six_le h6
      omega
    · omega
  lenBound hn := by
    have htn := h.n
    rw [h.outside.2]
    by_cases h6 : 6 ≤ s.n
    · rw [h.len_of_six_le h6]
      exact hs.lenBound h6
    · exact h.lenBound (by omega)
  sync1 _ := by
    by_cases h0 : s.n = 0
    · rw [← h.sync1 h0, ← h.bufByte_new, h0]
    · rw [h.bufByte_old (Ne.symm h0)]
      exact hs.sync1 (by omega)
  sync2 hn := by
    have htn := h.n
    by_cases h1 : s.n = 1
    · rw [← h.sync2 h1, ← h.bufByte_new, h1]
    · rw [h.bufByte_old (Ne.symm h1)]
      exact hs.sync2 (by omega)
  cls := by
    rw [h.cls, h.n, hs.cls]
    by_cases h2 : s.n = 2
    · rw [if_pos h2, if_pos (by omega), ← h2, h.bufByte_new]
    · rw [if_neg h2, h.bufByte_old (Ne.symm h2)]
      congr 1
      exact propext (by omega)
  id := by
    rw [h.id, h.n, hs.id]
    by_cases h3 : s.n = 3
    · rw [if_pos h3, if_pos (by omega), ← h3, h.bufByte_new]
    · rw [if_neg h3, h.bufByte_old (Ne.symm h3)]
      congr 1
      exact propext (by omega)
  len := by
    rw [h.len, h.n]
    by_cases h4 : s.n = 4
    · rw [if_pos h4, if_neg (by omega), if_pos (by omega), ← h4, h.bufByte_new]
    · rw [if_neg h4, h.bufByte_old (Ne.symm h4)]
      by_cases h5 : s.n = 5
      · rw [if_pos h5, if_pos (by omega), ← h5, h.bufByte_new]
      · rw [if_neg h5, h.bufByte_old (Ne.symm h5), hs.len, if_neg h5, if_neg (show s.n + 1 ≠ 5 by omega)]
        congr 1
        exact propext (by omega)
  ck := h.ck_covered hs

/-- The length once its high byte is in, as a number (R130). -/
theorem fullLen_toNat (x : Byte) (l : Half) : (fullLen x l).toNat = l.toNat % 256 + 256 * x.toNat := by
  have hl := Nat.mod_lt l.toNat (show 256 > 0 by decide)
  simp only [fullLen, BitVec.toNat_append, BitVec.toNat_setWidth]
  rw [← Nat.shiftLeft_add_eq_or_of_lt hl, Nat.shiftLeft_eq]
  omega

/-- With the header in, `N` is past the index of every header register. -/
theorem header_in {n : Nat} (h6 : 6 ≤ n) :
    n ≠ 0 ∧ n ≠ 1 ∧ n ≠ 2 ∧ n ≠ 3 ∧ n ≠ 4 ∧ n ≠ 5 ∧ 2 ≤ n ∧ 6 ≤ n := by omega

/-- `LEN` after `LENH` is the length field of the header (R130). -/
theorem Consistent.fullLen_eq (hs : Consistent s) (hn : s.n = 5) :
    (fullLen x s.len).toNat = frameLen (bufByte s 4) x := by
  have hl : s.len.toNat = (bufByte s 4).toNat := by simpa [hn] using hs.len
  have := (bufByte s 4).isLt
  rw [fullLen_toNat, hl, frameLen]
  omega

/-! Every `Step` that stores its byte and goes on takes it into the candidate. -/

theorem takesByte_sync1 (hn : s.n = 0) : TakesByte sync1Byte s (setPhase .hunt2 (bufPush sync1Byte s)) := by
  constructor <;> simp [hn, phaseOf, SameCounters, SameOutputs, SameOutside]

theorem takesByte_sync2 (hn : s.n = 1) : TakesByte sync2Byte s (setPhase .cls (bufPush sync2Byte s)) := by
  constructor <;> simp [hn, phaseOf, SameCounters, SameOutputs, SameOutside]

theorem takesByte_cls (hn : s.n = 2) : TakesByte x s (setPhase .id (accumulate x (setCls x (bufPush x s)))) := by
  have hcov : s.n < 6 + s.len.toNat := by omega
  constructor <;> simp [hn, hn ▸ hcov, phaseOf, ckStep, SameCounters, SameOutputs, SameOutside]

theorem takesByte_idb (hn : s.n = 3) : TakesByte x s (setPhase .lenLo (accumulate x (setId x (bufPush x s)))) := by
  have hcov : s.n < 6 + s.len.toNat := by omega
  constructor <;> simp [hn, hn ▸ hcov, phaseOf, ckStep, SameCounters, SameOutputs, SameOutside]

theorem takesByte_lenl (hn : s.n = 4) :
    TakesByte x s (setPhase .lenHi (accumulate x (setLen (x.setWidth 16) (bufPush x s)))) := by
  have hx : x.toNat < 65536 := by omega
  have hcov : s.n < 6 + x.toNat := by omega
  constructor <;>
    simp [hn, hn ▸ hcov, Nat.mod_eq_of_lt hx, phaseOf, ckStep, SameCounters, SameOutputs, SameOutside]

/-- `LENH` on a length up to `MAX_LEN`, whatever phase comes next. -/
theorem takesByte_lenh (hs : Consistent s) (hn : s.n = 5) (hl : (fullLen x s.len).toNat ≤ s.cfg.maxLen.toNat)
    {ph : Phase} (hph : ph = phaseOf 6 (fullLen x s.len).toNat) :
    TakesByte x s (setPhase ph (accumulate x (setLen (fullLen x s.len) (bufPush x s)))) := by
  have hlen := hs.fullLen_eq (x := x) hn
  have hcov : s.n < 6 + frameLen (bufByte s 4) x := by omega
  constructor <;>
    simp [hn, hn ▸ hcov, hph, hlen, hlen ▸ hl, ckStep, SameCounters, SameOutputs, SameOutside]

/-- `PAYL`, whatever phase comes next. -/
theorem takesByte_payl (h6 : 6 ≤ s.n) (hlt : s.n < 6 + s.len.toNat) {ph : Phase}
    (hph : ph = phaseOf (s.n + 1) s.len.toNat) : TakesByte x s (setPhase ph (accumulate x (bufPush x s))) := by
  constructor <;>
    simp [header_in h6, hph, hlt, hlt.le, ckStep, SameCounters, SameOutputs, SameOutside]

theorem takesByte_cka (h6 : 6 ≤ s.n) (hn : s.n = 6 + s.len.toNat) :
    TakesByte x s (setPhase .ckB (bufPush x s)) := by
  have hph := phaseOf_of_six_le s.len.toNat (show 6 ≤ s.n + 1 by omega)
  rw [if_neg (by omega), if_neg (by omega)] at hph
  constructor <;>
    simp [header_in h6, hph, hn.le, hn.ge, SameCounters, SameOutputs, SameOutside]

end

end Sys2Proof.Machine
end

section
/-! Proofs about the reference decoder `Scan` (`41_decoder.md` R136): the fuel gone, and one equation per kind of
round. -/

namespace Sys2Proof.Machine

variable {maxLen : Nat}

/-- What a scan answers when these events and skipped bytes come before it. -/
def ScanResult.after (es : List Event) (k : Nat) (r : ScanResult) : ScanResult :=
  { events := es ++ r.events, skipped := r.skipped + k, rest := r.rest }

@[simp] theorem ScanResult.after_nil_zero (r : ScanResult) : r.after [] 0 = r := rfl

/-- With fuel for every byte the amount does not matter. -/
theorem scanLoop_enough : ∀ (k j : Nat) (buf : List Byte), buf.length ≤ k → buf.length ≤ j →
    scanLoop maxLen k buf = scanLoop maxLen j buf := by
  intro k
  induction k with
  | zero =>
    intro j buf hk _
    obtain rfl := List.length_eq_zero_iff.mp (Nat.le_zero.mp hk)
    cases j <;> rfl
  | succ k ih =>
    intro j buf hk hj
    cases buf with
    | nil => cases j <;> rfl
    | cons b tail =>
      cases j with
      | zero => simp at hj
      | succ j =>
        rw [List.length_cons] at hk hj
        have htail : scanLoop maxLen k tail = scanLoop maxLen j tail := ih j tail (by omega) (by omega)
        have hshort : ∀ after : List Byte, after.length ≤ tail.length →
            scanLoop maxLen k after = scanLoop maxLen j after :=
          fun after h => ih j after (by omega) (by omega)
        simp only [scanLoop, htail]
        split
        · rfl
        · split
          · split
            · rfl
            · split
              · rename_i heq _ _ _ _ _ hdrop
                rw [hshort]
                have := congrArg List.length hdrop
                obtain ⟨rfl, rfl⟩ := List.cons.inj heq
                simp only [List.length_drop, List.length_cons] at this ⊢
                omega
              · rfl
          · rfl

/-- `Scan` of a byte and more has fuel for one round and for a scan of everything after the byte. -/
theorem scan_cons (b : Byte) (tail : List Byte) :
    scan maxLen (b :: tail) = scanLoop maxLen (tail.length + 1) (b :: tail) := rfl

theorem scanLoop_eq_scan {k : Nat} {buf : List Byte} (h : buf.length ≤ k) : scanLoop maxLen k buf = scan maxLen buf :=
  scanLoop_enough _ _ _ h (Nat.le_refl _)

@[simp] theorem scan_nil : scan maxLen [] = { events := [], skipped := 0, rest := [] } := rfl

/-- A byte at which no frame may start is skipped. -/
theorem scan_skip {b : Byte} {tail : List Byte} (h : startsCandidate (b :: tail) = false) :
    scan maxLen (b :: tail) = (scan maxLen tail).after [] 1 := by
  rw [scan_cons]
  simp only [scanLoop, h, if_true]
  rfl

/-- A candidate whose header is not all in is the remaining buffer. -/
theorem scan_short {buf : List Byte} (h : startsCandidate buf = true) (hlen : buf.length < 6) :
    scan maxLen buf = { events := [], skipped := 0, rest := buf } := by
  cases buf with
  | nil => rfl
  | cons b tail =>
    rw [scan_cons]
    simp only [scanLoop, h, Bool.true_eq_false, if_false]
    split
    · rename_i heq
      have := congrArg List.length heq
      simp only [List.length_cons] at this hlen
      omega
    · rfl

theorem startsCandidate_marker (rest : List Byte) : startsCandidate (sync1Byte :: sync2Byte :: rest) = true := rfl

section
variable {c i l h : Byte}

/-- The header announces too long a payload: an event, and the scan goes on one byte later. -/
theorem scan_oversized (more : List Byte) (hl : maxLen < frameLen l h) :
    scan maxLen (sync1Byte :: sync2Byte :: c :: i :: l :: h :: more) =
      (scan maxLen (sync2Byte :: c :: i :: l :: h :: more)).after
        [.oversized c i (BitVec.ofNat 16 (frameLen l h))] 1 := by
  rw [scan_cons]
  simp only [scanLoop, startsCandidate_marker, Bool.true_eq_false, if_false, if_pos hl]
  rfl

/-- A candidate that wants more bytes is the remaining buffer. -/
theorem scan_pending {more : List Byte} (hl : frameLen l h ≤ maxLen) (hm : more.length < frameLen l h + 2) :
    scan maxLen (sync1Byte :: sync2Byte :: c :: i :: l :: h :: more) =
      { events := [], skipped := 0, rest := sync1Byte :: sync2Byte :: c :: i :: l :: h :: more } := by
  rw [scan_cons]
  simp only [scanLoop, startsCandidate_marker, Bool.true_eq_false, if_false, if_neg (Nat.not_lt.mpr hl)]
  split
  · rename_i hdrop
    have := congrArg List.length hdrop
    simp only [List.length_drop, List.length_cons] at this
    omega
  · rfl

/-- A complete candidate: accepted whole, or an event and the scan goes on one byte later. -/
theorem scan_complete {a b : Byte} {p : List Byte} (rest : List Byte) (hp : p.length = frameLen l h)
    (hl : frameLen l h ≤ maxLen) :
    scan maxLen (sync1Byte :: sync2Byte :: c :: i :: l :: h :: (p ++ a :: b :: rest)) =
      if ckSeq (c :: i :: l :: h :: p) = (a, b) then
        (scan maxLen rest).after [.frame c i (BitVec.ofNat 16 (frameLen l h)) p] 0
      else
        (scan maxLen (sync2Byte :: c :: i :: l :: h :: (p ++ a :: b :: rest))).after
          [.checksumError (sync1Byte :: sync2Byte :: c :: i :: l :: h :: (p ++ [a, b]))] 1 := by
  have hraw : (sync1Byte :: sync2Byte :: c :: i :: l :: h :: (p ++ a :: b :: rest)).take (8 + frameLen l h) =
      sync1Byte :: sync2Byte :: c :: i :: l :: h :: (p ++ [a, b]) := by
    simp [← hp, Nat.add_comm 8, List.take_append]
  rw [scan_cons]
  simp only [scanLoop, startsCandidate_marker, Bool.true_eq_false, if_false, if_neg (Nat.not_lt.mpr hl), hraw,
    List.drop_left' hp, List.take_left' hp]
  rw [scanLoop_eq_scan (buf := rest) (by simp only [List.length_cons, List.length_append]; omega)]
  rfl

end

end Sys2Proof.Machine
end

section
/-! Proofs about the receive path as a whole (`41_decoder.md` R120, R136): one `Step` from a consistent state is what
one round of `Scan` takes from the bytes held and pending, and so `Drain` and `RX*` are `Scan`. -/

namespace Sys2Proof.Machine

@[simp] theorem countKind_append (k : BitVec 2) (es fs : List Event) :
    countKind k (es ++ fs) = countKind k es + countKind k fs := List.countP_append

/-- From `s` to `t` exactly the events `es` are put out and counted by their kinds, and exactly `k` bytes are counted
as skipped; what the receive path does not touch is unchanged. -/
structure Reports (es : List Event) (k : Nat) (s t : State) : Prop where
  evq : t.evq = s.evq ++ es
  skipCnt : t.skipCnt = satAdd s.skipCnt k
  frameCnt : t.frameCnt = satAdd s.frameCnt (countKind 1#2 es)
  ckerrCnt : t.ckerrCnt = satAdd s.ckerrCnt (countKind 2#2 es)
  ovszCnt : t.ovszCnt = satAdd s.ovszCnt (countKind 3#2 es)
  abortCnt : t.abortCnt = s.abortCnt
  txq : t.txq = s.txq
  rdq : t.rdq = s.rdq
  outside : SameOutside s t

theorem Reports.refl (s : State) : Reports [] 0 s s := by
  constructor <;> simp [countKind, SameOutside]

/-- Two stretches one after the other: events in order, counts added, saturated or not. -/
theorem Reports.trans {es fs : List Event} {j k : Nat} {s t u : State} (h : Reports es j s t)
    (h' : Reports fs k t u) : Reports (es ++ fs) (k + j) s u where
  evq := by rw [h'.evq, h.evq, List.append_assoc]
  skipCnt := by rw [h'.skipCnt, h.skipCnt, satAdd_satAdd, Nat.add_comm]
  frameCnt := by rw [h'.frameCnt, h.frameCnt, satAdd_satAdd, countKind_append]
  ckerrCnt := by rw [h'.ckerrCnt, h.ckerrCnt, satAdd_satAdd, countKind_append]
  ovszCnt := by rw [h'.ovszCnt, h.ovszCnt, satAdd_satAdd, countKind_append]
  abortCnt := h'.abortCnt.trans h.abortCnt
  txq := h'.txq.trans h.txq
  rdq := h'.rdq.trans h.rdq
  outside := ⟨h'.outside.1.trans h.outside.1, h'.outside.2.trans h.outside.2⟩

/-- Taking a byte reports nothing. -/
theorem TakesByte.reports {x : Byte} {s t : State} (h : TakesByte x s t) : Reports [] 0 s t := by
  obtain ⟨hf, hc, ho, hsk, ha⟩ := h.counters
  obtain ⟨he, ht, hr⟩ := h.outputs
  exact ⟨by simp [he], by simp [hsk], by simp [hf, countKind], by simp [hc, countKind], by simp [ho, countKind], ha, ht,
    hr, h.outside⟩

/-- What one `Step` on `x` from `s` comes to, with `r` to be replayed: a consistent state, and of the bytes held and
pending `Scan` takes what the `Step` reports, whatever else is pending. -/
def StepsAsScan (x : Byte) (s t : State) (r : List Byte) : Prop :=
  Consistent t ∧ ∃ es k, Reports es k s t ∧ ∀ p,
    scan s.cfg.maxLen.toNat (bufBytes s ++ x :: p) =
      (scan s.cfg.maxLen.toNat (bufBytes t ++ (r ++ p))).after es k

@[simp] theorem bufBytes_bumpSkip (k : Nat) (s : State) : bufBytes (bumpSkip k s) = bufBytes s := bufBytes_congr rfl rfl

section
variable {x : Byte} {s t : State} {r : List Byte}

/-- A byte taken into the candidate goes from the pending bytes to the held ones; no round of `Scan` is over. -/
theorem TakesByte.stepsAsScan (h : TakesByte x s t) (hs : Consistent s) : StepsAsScan x s t [] :=
  ⟨hs.takesByte h, [], 0, h.reports, fun p => by simp [h.bufBytes]⟩

/-- A byte that begins no candidate is skipped by the `Step` and by `Scan`. -/
theorem stepsAsScan_skip (hs : Consistent s) (hn : s.n = 0) (hx : x ≠ sync1Byte) :
    StepsAsScan x s (bumpSkip 1 s) [] := by
  have hstart : ∀ p, startsCandidate (x :: p) = false := fun p => by cases p <;> simp [startsCandidate, hx]
  refine ⟨hs.bumpSkip 1, [], 1, ?_, fun p => ?_⟩
  · constructor <;> simp [countKind, SameOutside]
  · rw [bufBytes_bumpSkip, bufBytes_of_n_zero hn]
    exact scan_skip (hstart p)

/-- A second `B5` is skipped in favour of the first one's place: `Scan` skips the first and is left with the same. -/
theorem stepsAsScan_resync1 (hs : Consistent s) (hn : s.n = 1) : StepsAsScan sync1Byte s (bumpSkip 1 s) [] := by
  refine ⟨hs.bumpSkip 1, [], 1, ?_, fun p => ?_⟩
  · constructor <;> simp [countKind, SameOutside]
  · rw [bufBytes_bumpSkip, hs.bufBytes_of_n_one hn]
    exact scan_skip (by rfl)

/-- `DESYNC` is two rounds of `Scan`, one for the held `B5` and one for the byte after it. -/
theorem stepsAsScan_desync (hs : Consistent s) (hn : s.n = 1) (h2 : x ≠ sync2Byte) (h1 : x ≠ sync1Byte) :
    StepsAsScan x s (clear (bumpSkip 2 s)) [] := by
  have hfirst : ∀ p, startsCandidate (sync1Byte :: x :: p) = false := fun p => by simp [startsCandidate, h2]
  have hsecond : ∀ p, startsCandidate (x :: p) = false := fun p => by cases p <;> simp [startsCandidate, h1]
  refine ⟨consistent_clear _, [], 2, ?_, fun p => ?_⟩
  · constructor <;> simp [countKind, SameOutside]
  · rw [hs.bufBytes_of_n_one hn, List.singleton_append, scan_skip (hfirst p), scan_skip (hsecond p), bufBytes_clear]
    rfl

/-- A length above `MAX_LEN`: `Scan` drops the first byte of the six, and the other five are replayed. -/
theorem stepsAsScan_oversized (hs : Consistent s) (hn : s.n = 5)
    (hl : s.cfg.maxLen.toNat < (fullLen x s.len).toNat) :
    StepsAsScan x s
      (clear (bumpSkip 1 (bumpOvsz (emit (.oversized s.cls s.id (fullLen x s.len))
        (accumulate x (setLen (fullLen x s.len) (bufPush x s)))))))
      ((bufBytes s ++ [x]).drop 1) := by
  have hlen := hs.fullLen_eq (x := x) hn
  refine ⟨consistent_clear _, [.oversized s.cls s.id (fullLen x s.len)], 1, ?_, fun p => ?_⟩
  · constructor <;> simp [countKind, eventKind, SameOutside]
  · rw [hlen] at hl
    rw [bufBytes_clear, hs.bufBytes_of_n_five hn, show fullLen x s.len = BitVec.ofNat 16 (frameLen (bufByte s 4) x) by
      rw [← hlen, BitVec.ofNat_toNat, BitVec.setWidth_eq]]
    exact scan_oversized p hl

/-- In phase `CK_B` `Scan` has the whole candidate before it once `x` is in, and compares what `CKB` compares. -/
theorem Consistent.scan_ckB (hs : Consistent s) (hn : s.n = 7 + s.len.toNat) (x : Byte) (p : List Byte) :
    scan s.cfg.maxLen.toNat (bufBytes s ++ x :: p) =
      if (s.ckA, s.ckB) = (bufByte s (6 + s.len.toNat), x) then
        (scan s.cfg.maxLen.toNat p).after [.frame s.cls s.id s.len (bufRange s 6 (6 + s.len.toNat))] 0
      else
        (scan s.cfg.maxLen.toNat ((bufBytes s ++ [x]).drop 1 ++ p)).after [.checksumError (bufBytes s ++ [x])] 1 := by
  have h6 : 6 ≤ s.n := by omega
  have hlen := hs.len_of_six_le h6
  have hheld : bufBytes s = sync1Byte :: sync2Byte :: s.cls :: s.id :: bufByte s 4 :: bufByte s 5 ::
      (bufRange s 6 (6 + s.len.toNat) ++ [bufByte s (6 + s.len.toNat)]) := by
    rw [hs.bufBytes_marker (by omega), hs.bufRange_header h6 h6, ← bufRange_succ s (by omega), hn]
    congr 7
    omega
  have hck : ckSeq (s.cls :: s.id :: bufByte s 4 :: bufByte s 5 :: bufRange s 6 (6 + s.len.toNat)) =
      (s.ckA, s.ckB) := by
    rw [← hs.bufRange_header h6 (by omega), hs.ck, show min s.n (6 + s.len.toNat) = 6 + s.len.toNat by omega]
  have hl16 : s.len = BitVec.ofNat 16 (frameLen (bufByte s 4) (bufByte s 5)) := by
    rw [← hlen, BitVec.ofNat_toNat, BitVec.setWidth_eq]
  have hscan := scan_complete (maxLen := s.cfg.maxLen.toNat) (c := s.cls) (i := s.id) (l := bufByte s 4)
    (h := bufByte s 5) (a := bufByte s (6 + s.len.toNat)) (b := x) (p := bufRange s 6 (6 + s.len.toNat)) p
    (by rw [bufRange_length, ← hlen]; omega) (by rw [← hlen]; exact hs.lenBound h6)
  rw [hck, ← hl16] at hscan
  rw [hheld]
  simpa only [List.cons_append, List.append_assoc, List.nil_append, List.drop_succ_cons, List.drop_zero] using hscan

/-- Both checksum bytes right: `Scan` takes the whole frame. -/
theorem stepsAsScan_accept (hs : Consistent s) (hn : s.n = 7 + s.len.toNat)
    (ha : bufByte (bufPush x s) (6 + s.len.toNat) = s.ckA) (hb : x = s.ckB) :
    StepsAsScan x s
      (clear (bumpFrame (emit (.frame s.cls s.id s.len (bufRange (bufPush x s) 6 (6 + s.len.toNat))) (bufPush x s))))
      [] := by
  rw [bufByte_bufPush_other s x (by omega)] at ha
  rw [bufRange_bufPush_low s x (by omega)]
  refine ⟨consistent_clear _, [.frame s.cls s.id s.len (bufRange s 6 (6 + s.len.toNat))], 0, ?_, fun p => ?_⟩
  · constructor <;> simp [countKind, eventKind, SameOutside]
  · rw [hs.scan_ckB hn, if_pos (by rw [ha, hb]), bufBytes_clear]
    rfl

/-- A checksum byte wrong: `Scan` drops the first byte, and the others are replayed. -/
theorem stepsAsScan_reject (hs : Consistent s) (hn : s.n = 7 + s.len.toNat)
    (hne : ¬(bufByte (bufPush x s) (6 + s.len.toNat) = s.ckA ∧ x = s.ckB)) :
    StepsAsScan x s
      (clear (bumpSkip 1 (bumpCkerr (emit (.checksumError (bufBytes s ++ [x])) (bufPush x s)))))
      ((bufBytes s ++ [x]).drop 1) := by
  rw [bufByte_bufPush_other s x (by omega)] at hne
  have hdiffer : (s.ckA, s.ckB) ≠ (bufByte s (6 + s.len.toNat), x) := fun h =>
    hne ((Prod.mk.inj h).imp Eq.symm Eq.symm)
  refine ⟨consistent_clear _, [.checksumError (bufBytes s ++ [x])], 1, ?_, fun p => ?_⟩
  · constructor <;> simp [countKind, eventKind, SameOutside]
  · rw [hs.scan_ckB hn, if_neg hdiffer, bufBytes_clear]
    rfl

/-- Every `Step` from a consistent state is what `Scan` makes of the same bytes. -/
theorem Consistent.stepsAsScan (hs : Consistent s) (h : stepByte x s = .ok (t, r)) : StepsAsScan x s t r := by
  cases stepByte_cases h with
  | skip hp hx => exact stepsAsScan_skip hs (hs.phaseRange hp) hx
  | sync1 hp hx => exact hx ▸ (takesByte_sync1 (hs.phaseRange hp)).stepsAsScan hs
  | sync2 hp hx => exact hx ▸ (takesByte_sync2 (hs.phaseRange hp)).stepsAsScan hs
  | resync1 hp hx => exact hx ▸ stepsAsScan_resync1 hs (hs.phaseRange hp)
  | desync hp h2 h1 => exact stepsAsScan_desync hs (hs.phaseRange hp) h2 h1
  | cls hp => exact (takesByte_cls (hs.phaseRange hp)).stepsAsScan hs
  | idb hp => exact (takesByte_idb (hs.phaseRange hp)).stepsAsScan hs
  | lenl hp => exact (takesByte_lenl (hs.phaseRange hp)).stepsAsScan hs
  | lenhOversized hp _ hl => exact stepsAsScan_oversized hs (hs.phaseRange hp) hl
  | lenhEmpty hp _ hl h0 => exact (takesByte_lenh hs (hs.phaseRange hp) hl (by rw [h0]; rfl)).stepsAsScan hs
  | lenhPayload hp _ hl h0 =>
    refine (takesByte_lenh hs (hs.phaseRange hp) hl ?_).stepsAsScan hs
    have : (fullLen x s.len).toNat ≠ 0 := fun h => h0 (BitVec.eq_of_toNat_eq h)
    rw [phaseOf_of_six_le _ (Nat.le_refl 6), if_pos (by omega)]
  | paylLast hp _ he =>
    obtain ⟨h6, hlt⟩ := hs.phaseRange hp
    refine (takesByte_payl h6 hlt ?_).stepsAsScan hs
    rw [phaseOf_of_six_le _ (by omega), if_neg (by omega), if_pos he]
  | paylMore hp _ he =>
    obtain ⟨h6, hlt⟩ := hs.phaseRange hp
    refine (takesByte_payl (ph := s.phase) h6 hlt ?_).stepsAsScan hs
    rw [hp, phaseOf_of_six_le _ (by omega), if_pos (by omega)]
  | cka hp =>
    obtain ⟨h6, hn⟩ := hs.phaseRange hp
    exact (takesByte_cka h6 hn).stepsAsScan hs
  | ckbAccept hp _ _ ha hb => exact stepsAsScan_accept hs (hs.n_of_ckB hp) ha hb
  | ckbReject hp _ _ hne => exact stepsAsScan_reject hs (hs.n_of_ckB hp) hne

/-- From a consistent state every `Step` runs: there is room for its byte, and what `CKB` reads is there. -/
theorem Consistent.stepByte_ok (hs : Consistent s) (x : Byte) : ∃ t r, stepByte x s = .ok (t, r) := by
  have hroom := hs.room
  simp only [stepByte]
  cases hp : s.phase with
  | hunt1 =>
    dsimp only
    split
    · exact ⟨_, _, stepSync1_eq hroom⟩
    · exact ⟨_, _, rfl⟩
  | hunt2 =>
    dsimp only
    split
    · exact ⟨_, _, stepSync2_eq hroom⟩
    · split <;> exact ⟨_, _, rfl⟩
  | cls => exact ⟨_, _, stepCls_eq x hroom⟩
  | id => exact ⟨_, _, stepIdb_eq x hroom⟩
  | lenLo => exact ⟨_, _, stepLenl_eq x hroom⟩
  | lenHi =>
    simp only [stepLenh_eq hroom]
    split
    · exact ⟨_, _, rfl⟩
    · split <;> exact ⟨_, _, rfl⟩
  | payload =>
    simp only [stepPayl_eq hroom]
    split <;> exact ⟨_, _, rfl⟩
  | ckA => exact ⟨_, _, stepCka_eq x hroom⟩
  | ckB =>
    simp only [stepCkb_eq hroom (hs.ckA_room (hs.phaseRange hp).1)]
    split <;> exact ⟨_, _, rfl⟩

end

/-- Induction along `Drain` (R120): a property of pending bytes and a state holds if it does for what each `Step`
leaves pending. It ends by R135. -/
theorem drain_induction {motive : List Byte → State → Prop} (nil : ∀ s, motive [] s)
    (step : ∀ x p s, (∀ t r, stepByte x s = .ok (t, r) → motive (r ++ p) t) → motive (x :: p) s)
    (p : List Byte) (s : State) : motive p s := by
  match p with
  | [] => exact nil s
  | x :: p => exact step x p s fun t r h => drain_induction nil step (r ++ p) t
  termination_by stepsNeeded p s
  decreasing_by exact stepsNeeded_step h

/-- Nothing pending: what a consistent state holds is what `Scan` leaves. -/
theorem Consistent.scan_bufBytes {s : State} (hs : Consistent s) :
    scan s.cfg.maxLen.toNat (bufBytes s) = { events := [], skipped := 0, rest := bufBytes s } := by
  by_cases h6 : 6 ≤ s.n
  · have hlen := hs.len_of_six_le h6
    have := hs.lenBound h6
    have := hs.pending h6
    rw [hs.bufBytes_marker (by omega), hs.bufRange_header h6 h6]
    exact scan_pending (by omega) (by rw [bufRange_length]; omega)
  · by_cases h0 : s.n = 0
    · rw [bufBytes_of_n_zero h0, scan_nil]
    · refine scan_short ?_ (by rw [bufBytes_length]; omega)
      by_cases h1 : s.n = 1
      · rw [hs.bufBytes_of_n_one h1]; rfl
      · rw [hs.bufBytes_marker (by omega)]; rfl

/-- `Drain` from a consistent state is `Scan` of the bytes held and pending. -/
theorem Consistent.drainAll_scan (p : List Byte) {s : State} (hs : Consistent s) :
    ∃ t, drainAll p s = .ok t ∧ Consistent t ∧
      bufBytes t = (scan s.cfg.maxLen.toNat (bufBytes s ++ p)).rest ∧
      Reports (scan s.cfg.maxLen.toNat (bufBytes s ++ p)).events
        (scan s.cfg.maxLen.toNat (bufBytes s ++ p)).skipped s t := by
  revert hs
  induction p, s using drain_induction with
  | nil s =>
    intro hs
    rw [List.append_nil, hs.scan_bufBytes]
    exact ⟨s, drainAll_nil s, hs, rfl, .refl s⟩
  | step x p s ih =>
    intro hs
    obtain ⟨t, r, hstep⟩ := hs.stepByte_ok x
    obtain ⟨ht, es, k, hfirst, hscan⟩ := hs.stepsAsScan hstep
    obtain ⟨u, hdrain, hu, hrest, hmore⟩ := ih t r hstep ht
    rw [hfirst.outside.2] at hrest hmore
    rw [hscan p]
    refine ⟨u, ?_, hu, hrest, hfirst.trans hmore⟩
    rw [drainAll_cons, hstep]
    exact hdrain

/-- From a consistent state `Drain` runs to its end, in a consistent state. -/
theorem Consistent.drainAll_ok {s : State} (hs : Consistent s) (p : List Byte) :
    ∃ t, drainAll p s = .ok t ∧ Consistent t := by
  obtain ⟨t, hdrain, ht, _⟩ := hs.drainAll_scan p
  exact ⟨t, hdrain, ht⟩

/-- Settles O29: `RX*` is `Drain` of the whole list, and `Drain` is `Scan` by induction along its `Step`s. -/
theorem receivePathIsScan : Obligations.ReceivePathIsScan := by
  intro bs s hs
  obtain ⟨t, hdrain, ht, hrest, h⟩ := hs.drainAll_scan bs
  exact ⟨t, (rxBytes_eq_drainAll bs s).trans hdrain, ht, hrest, h.evq, h.skipCnt, h.frameCnt, h.ckerrCnt, h.ovszCnt⟩

/-- Settles O26: `drainAll_cons` is the equation of `Drain` with the fuel gone, and no consistent state stops it. -/
theorem rxIsDrainOfOneByte : Obligations.RxIsDrainOfOneByte := by
  intro b s
  refine ⟨rfl, drainAll_nil s, fun x p => drainAll_cons x p s, fun hs => ?_⟩
  obtain ⟨t, hdrain, _⟩ := hs.drainAll_ok [b]
  exact ⟨t, finish_next.mpr hdrain⟩

end Sys2Proof.Machine
end

section
/-! Proofs about the twelve per-byte operations one by one (`41_decoder.md` R122 to R134): what each leaves, and its
frame. -/

namespace Sys2Proof.Machine

/-- The selected operation, with nothing to replay, answers the state of its `Step`. -/
theorem whenSelected_ok {b : Bool} {r : StepResult} {t : State} (hb : b = true) (hr : r = .ok (t, [])) :
    whenSelected b r = .next t :=
  whenSelected_next.mpr ⟨hb, by rw [hr, settle, drainAll_nil]⟩

/-- `Append` and a phase change touch nothing but `BUF`, `N` and `PHASE`. -/
theorem setPhase_bufPush_frame (ph : Phase) (x : Byte) (s : State) :
    SameHeader s (setPhase ph (bufPush x s)) ∧ SameAccumulators s (setPhase ph (bufPush x s)) ∧
      SameCounters s (setPhase ph (bufPush x s)) ∧ SameOutputs s (setPhase ph (bufPush x s)) ∧
      SameOutside s (setPhase ph (bufPush x s)) := by
  simp [SameHeader, SameAccumulators, SameCounters, SameOutputs, SameOutside]

/-- Settles O10: `B5` is stored as the first byte of a candidate that had none. -/
theorem sync1OpensACandidate : Obligations.Sync1OpensACandidate := by
  intro s hp hn
  refine ⟨_, whenSelected_ok (decide_eq_true hp) (stepSync1_eq hn), rfl, appendsByte_of_buf rfl rfl, fun hs => ?_,
    setPhase_bufPush_frame _ _ s⟩
  have hn0 : s.n = 0 := hs.phaseRange hp
  have ht := takesByte_sync1 hn0
  exact ⟨by rw [ht.bufBytes, bufBytes_of_n_zero hn0]; rfl, by rw [ht.n, hn0]⟩

/-- Settles O11: `62` is stored behind the held `B5`, and before the class byte nothing has been accumulated. -/
theorem sync2CompletesTheMarker : Obligations.Sync2CompletesTheMarker := by
  intro s hp hn
  refine ⟨_, whenSelected_ok (decide_eq_true hp) (stepSync2_eq hn), rfl, appendsByte_of_buf rfl rfl, fun hs => ?_,
    setPhase_bufPush_frame _ _ s⟩
  have hn1 : s.n = 1 := hs.phaseRange hp
  have ht := takesByte_sync2 hn1
  exact ⟨by rw [ht.bufBytes, hs.bufBytes_of_n_one hn1]; rfl, by rw [ht.n, hn1], hs.ck_zero (by omega)⟩

/-- Settles O14: the class byte is the first one accumulated, so both accumulators, zero until then, become it. -/
theorem clsStoresTheClass : Obligations.ClsStoresTheClass := by
  intro x s hp hn
  refine ⟨_, whenSelected_ok (decide_eq_true hp) (stepCls_eq x hn), rfl, rfl, rfl, rfl, appendsByte_of_buf rfl rfl,
    fun hs => ?_, rfl, rfl, by simp [SameCounters, SameOutputs, SameOutside]⟩
  have hn2 : s.n = 2 := hs.phaseRange hp
  obtain ⟨ha, hb⟩ := hs.ck_zero (by omega)
  simp [hn2, ha, hb]

/-- Settles O15: in phase `ID` a consistent state holds three bytes. -/
theorem idbStoresTheId : Obligations.IdbStoresTheId := by
  intro x s hp hn
  exact ⟨_, whenSelected_ok (decide_eq_true hp) (stepIdb_eq x hn), rfl, rfl, rfl, rfl, appendsByte_of_buf rfl rfl,
    fun hs => hs.phaseRange hp, rfl, rfl, by simp [SameCounters, SameOutputs, SameOutside]⟩

/-- Settles O16: the low byte alone fits the length field. -/
theorem lenlStoresTheLowByte : Obligations.LenlStoresTheLowByte := by
  intro x s hp hn
  exact ⟨_, whenSelected_ok (decide_eq_true hp) (stepLenl_eq x hn), rfl, BitVec.toNat_setWidth_of_le (by decide), rfl,
    rfl, appendsByte_of_buf rfl rfl, fun hs => hs.phaseRange hp, rfl, rfl,
    by simp [SameCounters, SameOutputs, SameOutside]⟩

/-- Settles O20: the last payload byte moves to `CK_A`, an earlier one stays in `PAYLOAD`. -/
theorem paylStoresAPayloadByte : Obligations.PaylStoresAPayloadByte := by
  intro x s hp hn
  have hstep := stepPayl_eq (x := x) (s := s) hn
  split at hstep <;> rename_i hlast
  · exact ⟨_, whenSelected_ok (decide_eq_true hp) hstep, by simp [hlast], rfl, rfl, appendsByte_of_buf rfl rfl,
      fun hs => hs.phaseRange hp, by simp [SameHeader, SameCounters, SameOutputs, SameOutside]⟩
  · exact ⟨_, whenSelected_ok (decide_eq_true hp) hstep, by simp [hlast, hp], rfl, rfl, appendsByte_of_buf rfl rfl,
      fun hs => hs.phaseRange hp, by simp [SameHeader, SameCounters, SameOutputs, SameOutside]⟩

/-- Settles O21: in phase `CK_A` a consistent state holds header and payload, and `CKA` only appends. -/
theorem ckaStoresTheFirstChecksumByte : Obligations.CkaStoresTheFirstChecksumByte := by
  intro x s hp hn
  exact ⟨_, whenSelected_ok (decide_eq_true hp) (stepCka_eq x hn), rfl, appendsByte_of_buf rfl rfl,
    fun hs => (hs.phaseRange hp).2, setPhase_bufPush_frame _ _ s⟩

/-- Settles O22: the byte just stored is past the payload and the first checksum byte, so both read as before. -/
theorem ckbAcceptsAMatchingChecksum : Obligations.CkbAcceptsAMatchingChecksum := by
  intro x s hs hp ha hb
  have hn := hs.n_of_ckB hp
  have hstep := stepCkb_eq (x := x) hs.room (hs.ckA_room (by omega))
  rw [bufByte_bufPush_other s x (by omega), bufRange_bufPush_low s x (by omega), if_pos ⟨ha, hb⟩] at hstep
  exact whenSelected_ok (decide_eq_true hp) hstep

/-- Settles O9: `Bump(SKIP_CNT)` is all of `SKIP`, and it asks for no replay. -/
theorem skipCountsOneByteAndChangesNothingElse : Obligations.SkipCountsOneByteAndChangesNothingElse := by
  intro x s hp hx
  exact whenSelected_ok (decide_eq_true ⟨hp, hx⟩) rfl

/-- Settles O12: in phase `HUNT2` a consistent state holds the one byte `B5`, which the new one replaces. -/
theorem resync1CountsTheEarlierByte : Obligations.Resync1CountsTheEarlierByte := by
  intro s hp
  refine ⟨whenSelected_ok (decide_eq_true hp) rfl, fun hs => ?_⟩
  have hn1 : s.n = 1 := hs.phaseRange hp
  exact ⟨hs.bufBytes_of_n_one hn1, hn1⟩

/-- Settles O13: the two bytes are counted before `Clear()`, and nothing is replayed. -/
theorem desyncDropsBothBytes : Obligations.DesyncDropsBothBytes := by
  intro x s hp h2 h1
  exact whenSelected_ok (decide_eq_true ⟨hp, h2, h1⟩) rfl

end Sys2Proof.Machine
end

section
/-! Proofs about the transmit side (`42_encoder.md` R160, R161): the bytes of an encoded frame, and the two outcomes of
`ENCODE`. -/

namespace Sys2Proof.Machine

/-- `L[7:0]` as a number (R160). -/
theorem lenLow_eq_ofNat_mod (n : Nat) : lenLow n = BitVec.ofNat 8 (n % 256) :=
  BitVec.eq_of_toNat_eq (by simp [lenLow])

/-- The body of R160, with the two bytes of the length written out. -/
theorem frameBody_eq_append (c i : Byte) (p : List Byte) :
    frameBody c i p = [c, i, BitVec.ofNat 8 (p.length % 256), BitVec.ofNat 8 (p.length / 256)] ++ p := by
  rw [frameBody, lenLow_eq_ofNat_mod]
  rfl

/-- `Encode` as R160 writes it: marker, body, checksum of the body. -/
theorem encodeFrame_eq_append (c i : Byte) (p : List Byte) :
    encodeFrame c i p =
      [0xB5#8, 0x62#8] ++ frameBody c i p ++ [(ckSeq (frameBody c i p)).1, (ckSeq (frameBody c i p)).2] := rfl

/-- A payload that the length field can express is sent, whatever `MAX_LEN` (R160). -/
theorem execEncode_of_le (c i : Byte) {p : List Byte} (s : State) (h : p.length ≤ maxPayload) :
    execEncode c i p s = .next (send (encodeFrame c i p) s) :=
  if_pos h

/-- A longer payload is refused without effect (R161). -/
theorem execEncode_of_gt (c i : Byte) {p : List Byte} (s : State) (h : maxPayload < p.length) :
    execEncode c i p s = .next s :=
  if_neg (Nat.not_le.mpr h)

/-- Settles O45: `ENCODE` has one outcome on each side of the bound, and what it sends is R160's frame with the body
written out. -/
theorem encodeSendsTheFrame : Obligations.EncodeSendsTheFrame := by
  intro c i p s
  refine ⟨fun h => ?_, execEncode_of_gt c i s⟩
  have hsent := execEncode_of_le c i s h
  rw [encodeFrame_eq_append, frameBody_eq_append, ← List.append_assoc [0xB5#8, 0x62#8]] at hsent
  exact hsent

end Sys2Proof.Machine
end

section
/-! Proofs about the host operations (`43_host_ops.md` R171 to R174): what a write to `CMD` comes to for each value of
its two bits, and the cases of `FLUSH` and `ABORT`. -/

namespace Sys2Proof.Machine

/-- A consistent block that holds nothing is already in the state `Clear()` leaves (R32, R33). -/
theorem Consistent.clear_of_n_zero {s : State} (hs : Consistent s) (hn : s.n = 0) : clear s = s := by
  have hphase : s.phase = .hunt1 := by rw [hs.phase, hn]; rfl
  have hcls : s.cls = 0#8 := by simpa [hn] using hs.cls
  have hid : s.id = 0#8 := by simpa [hn] using hs.id
  have hlen : s.len = 0#16 := BitVec.eq_of_toNat_eq (by simpa [hn] using hs.len)
  have hbuf : s.buf = [] := by simpa [hn] using hs.cells
  obtain ⟨hckA, hckB⟩ := hs.ck_zero (by omega)
  cases s
  subst hn hphase hcls hid hlen hckA hckB hbuf
  rfl

@[simp] theorem bumpSkip_zero (s : State) : bumpSkip 0 s = s := by rw [bumpSkip, satAdd_zero]

@[simp] theorem flushCandidate_n (s : State) : (flushCandidate s).n = 0 := rfl

/-- With no byte pending `FLUSH` counts none and has nothing to clear. -/
theorem Consistent.flushCandidate_of_n_zero {s : State} (hs : Consistent s) (hn : s.n = 0) :
    flushCandidate s = s := by
  rw [flushCandidate, hn, bumpSkip_zero, hs.clear_of_n_zero hn]

/-- With no byte pending `ABORT` does nothing (R173). -/
theorem abortCandidate_of_n_zero {s : State} (hn : s.n = 0) : abortCandidate s = .ok s := if_pos hn

/-- With bytes pending `ABORT` is the `Drain` of all but the first, after both counters and `Clear()` (R173). -/
theorem abortCandidate_of_n_pos {s : State} (hn : 0 < s.n) (hcap : s.n ≤ bufCap s) :
    abortCandidate s = drainAll (bufRange s 1 s.n) (clear (bumpSkip 1 (bumpAbort s))) := by
  rw [abortCandidate, if_neg (Nat.pos_iff_ne_zero.mp hn), bufSlice_ok hcap]

/-- From a consistent state `ABORT` runs to its end, in a consistent state, and counts itself if a byte was pending:
the re-scan leaves `ABORT_CNT` alone. -/
theorem Consistent.abortCandidate_ok {s : State} (hs : Consistent s) :
    ∃ t, abortCandidate s = .ok t ∧ Consistent t ∧ t.abortCnt = satAdd s.abortCnt (if s.n = 0 then 0 else 1) := by
  by_cases hn : s.n = 0
  · exact ⟨s, abortCandidate_of_n_zero hn, hs, by rw [if_pos hn, satAdd_zero]⟩
  · rw [abortCandidate_of_n_pos (Nat.pos_of_ne_zero hn) hs.room.le, if_neg hn]
    obtain ⟨t, hdrain, ht, -, hreports⟩ :=
      (consistent_clear (Machine.bumpSkip 1 (bumpAbort s))).drainAll_scan (bufRange s 1 s.n)
    exact ⟨t, hdrain, ht, hreports.abortCnt⟩

/-- A write to any register but `CMD` is ignored (R171). -/
theorem execWr_of_ne {i : Nat} (v : Word) (s : State) (h : i ≠ 9) : execWr i v s = .next s := if_neg h

/-! What a write to `CMD` comes to, by bits 0 and 1 of the value (R171). -/

section
variable {v : Word} (s : State)

theorem writeCmd_of_neither (h0 : v.getLsbD 0 = false) (h1 : v.getLsbD 1 = false) : writeCmd v s = .ok s := by
  simp only [writeCmd, h0, h1, Bool.false_eq_true, if_false]

theorem writeCmd_of_flush (h0 : v.getLsbD 0 = true) (h1 : v.getLsbD 1 = false) :
    writeCmd v s = .ok (flushCandidate s) := by
  simp only [writeCmd, h0, h1, if_true, Bool.false_eq_true, if_false]

theorem writeCmd_of_abort (h0 : v.getLsbD 0 = false) (h1 : v.getLsbD 1 = true) :
    writeCmd v s = abortCandidate s := by
  simp only [writeCmd, h0, h1, if_true, Bool.false_eq_true, if_false]

theorem writeCmd_of_both (h0 : v.getLsbD 0 = true) (h1 : v.getLsbD 1 = true) :
    writeCmd v s = abortCandidate (flushCandidate s) := by
  simp only [writeCmd, h0, h1, if_true]

end

/-- Settles O43: an empty candidate is left alone, one inside the buffer is re-scanned without its first byte, and
from a consistent state the re-scan ends. -/
theorem abortRescansAllButTheFirstByte : Obligations.AbortRescansAllButTheFirstByte := by
  intro s
  refine ⟨fun hn => finish_next.mpr (abortCandidate_of_n_zero hn),
    fun hn hcap => congrArg finish (abortCandidate_of_n_pos hn hcap), fun hs => ?_⟩
  obtain ⟨t, habort, -, hcnt⟩ := hs.abortCandidate_ok
  exact ⟨t, finish_next.mpr habort, hcnt⟩

/-- Settles O40: one case of `writeCmd` for each value of bits 0 and 1. -/
theorem wrActsOnlyOnCmd : Obligations.WrActsOnlyOnCmd := by
  intro i v s
  exact ⟨execWr_of_ne v s, fun h0 h1 => congrArg finish (writeCmd_of_neither s h0 h1),
    fun h0 h1 => congrArg finish (writeCmd_of_flush s h0 h1),
    fun h0 h1 => congrArg finish (writeCmd_of_abort s h0 h1),
    fun h0 h1 => ⟨flushCandidate s, rfl, congrArg finish (writeCmd_of_both s h0 h1)⟩⟩

/-- Settles O41: `FLUSH` leaves nothing pending, so the `ABORT` after it does nothing. -/
theorem bothCommandBitsAreFlushAlone : Obligations.BothCommandBitsAreFlushAlone := by
  intro v s h0 h1
  refine congrArg finish (?_ : writeCmd v s = .ok (flushCandidate s))
  rw [writeCmd_of_both s h0 h1, abortCandidate_of_n_zero (flushCandidate_n s)]

/-- Settles O42: the state written out is `Clear()` after `Bump(SKIP_CNT, N)`, and a consistent block with nothing
pending is already in it. -/
theorem flushDiscardsTheCandidate : Obligations.FlushDiscardsTheCandidate := by
  intro s
  exact ⟨rfl, fun hs hn => congrArg Host.Outcome.next (hs.flushCandidate_of_n_zero hn)⟩

end Sys2Proof.Machine
end

section
/-! Proofs about `RESET` (`70_reset_and_hazards.md` R220, R221): the state it leaves. -/

namespace Sys2Proof.Machine

/-- `RESET` is `Clear()` followed by the zeroing of the five counters, in every state (R220). -/
theorem exec_reset (s : State) : exec .reset s = .next (zeroCounters (clear s)) := rfl

/-- Settles O46: `Clear()` writes the phase, the header, the accumulators (to the start value (0, 0) of R111), `N` and
`BUF`, `zeroCounters` the five counters, and neither writes any other field. -/
theorem resetLeavesTheHuntingState : Obligations.ResetLeavesTheHuntingState := by
  intro s
  rw [exec_reset, zeroCounters, clear, ckInit]

end Sys2Proof.Machine
end

section
/-! Proofs about the checksum and the counters as arithmetic (`40_checksum.md` R115, R116, `10_state.md` R36): what one
changed byte and zero bytes do, and the value of a counter after an increment. -/

namespace Sys2Proof.Machine

/-- The first accumulator tells two sequences of one length apart that differ in one position: their plain sums differ
by less than 256. -/
theorem ckSeq_fst_ne {x y : Byte} (before after : List Byte) (h : x ≠ y) :
    (ckSeq (before ++ x :: after)).1 ≠ (ckSeq (before ++ y :: after)).1 := by
  intro heq
  have hx := (checksumClosedForm (before ++ x :: after)).1
  have hy := (checksumClosedForm (before ++ y :: after)).1
  rw [heq] at hx
  simp only [List.map_append, List.map_cons, List.sum_append, List.sum_cons] at hx hy
  exact h (BitVec.eq_of_toNat_eq (by omega))

/-- Settles O6: by the closed form of the first accumulator. -/
theorem checksumSeesEverySingleByteChange : Obligations.ChecksumSeesEverySingleByteChange :=
  fun before after _ _ h => ckSeq_fst_ne before after h

/-- A byte changed in place changes the checksum. -/
theorem ckSeq_set_ne {s : List Byte} {j : Nat} {v : Byte} (hj : j < s.length) (hv : s[j]? ≠ some v) :
    ckSeq (s.set j v) ≠ ckSeq s := by
  rw [List.getElem?_eq_getElem hj, ne_eq, Option.some_inj] at hv
  intro heq
  refine ckSeq_fst_ne (s.take j) (s.drop (j + 1)) hv ?_
  rw [List.getElem_cons_drop, List.take_append_drop, ← List.set_eq_take_cons_drop v hj, heq]

/-- A zero byte leaves the start value (0, 0). -/
theorem ckSeq_zero_cons (s : List Byte) : ckSeq (0#8 :: s) = ckSeq s := rfl

/-- Settles O7: `CkStep` of 0 adds the first accumulator to the second, and leaves the start value as it is. -/
theorem zeroBytesInTheChecksum : Obligations.ZeroBytesInTheChecksum := by
  intro s n
  refine ⟨by rw [ckSeq_concat]; simp [ckStep], ?_⟩
  induction n with
  | zero => rfl
  | succ n ih => rw [List.replicate_succ, List.cons_append, ckSeq_zero_cons, ih]

/-- Settles O8: the value of a saturated sum. -/
theorem bumpSaturates : Obligations.BumpSaturates := satAdd_toNat

end Sys2Proof.Machine
end

section
/-! Proofs about encodings (`30_encoding.md` R80, R89, R94, R95): a frame and an operation are read back from what they
are written as, and what is read is a well-formed operation. -/

namespace Sys2Proof

/-- A frame is read back from its wire image, under its own name. -/
theorem decodeWire_wireBytes {c i : Byte} {p : List Byte} (a b : Byte) (hp : p.length ≤ maxPayload) :
    decodeWire (wireBytes c i p a b) = .ok (frameOf c i p a b) := by
  have hlen := frameLen_low_high hp
  simp [wireBytes, frameBody, decodeWire, hlen]

/-- What is read from the wire is one whole frame. -/
theorem decodeWire_ok {bs : List Byte} {j : Instr} (h : decodeWire bs = .ok j) :
    ∃ c i p a b, bs = wireBytes c i p a b ∧ p.length ≤ maxPayload ∧ j = frameOf c i p a b := by
  unfold decodeWire at h
  split at h
  next s1 s2 c i l h' rest =>
    split at h
    next hsync =>
      split at h
      next a b hdrop =>
        have hlen : (rest.take (frameLen l h')).length = frameLen l h' := by
          have := congrArg List.length hdrop
          simp only [List.length_drop, List.length_cons, List.length_nil] at this
          rw [List.length_take]
          omega
        refine ⟨c, i, rest.take (frameLen l h'), a, b, ?_, hlen.trans_le (frameLen_le l h'), (Except.ok.inj h).symm⟩
        rw [wireBytes, frameBody, hlen, lenLow_frameLen, lenHigh_frameLen, hsync.1, hsync.2, ← hdrop]
        simp
      · cases h
    · cases h
  · cases h

/-- The shape of an acknowledgement frame (R89). -/
theorem isAckShape_iff {c i : Byte} {p : List Byte} :
    isAckShape c i p = true ↔ c = ackClass ∧ (i = ackId ∨ i = nakId) ∧ ∃ x y, p = [x, y] := by
  simp [isAckShape, List.length_eq_two, and_assoc]

/-- A frame of another shape goes by the name `FRAME`. -/
theorem frameOf_of_not_ack {c i : Byte} {p : List Byte} (a b : Byte) (h : isAckShape c i p = false) :
    frameOf c i p a b = .frame c i p a b := by
  have hshape : ¬(c = ackClass ∧ (i = ackId ∨ i = nakId) ∧ ∃ x y, p = [x, y]) := fun hs => by
    rw [isAckShape_iff.mpr hs] at h
    cases h
  unfold frameOf
  split
  next x y =>
    rw [if_neg fun hc => hshape ⟨hc.1, .inl hc.2, x, y, rfl⟩, if_neg fun hc => hshape ⟨hc.1, .inr hc.2, x, y, rfl⟩]
  · rfl

/-- The name of a frame stands for its wire image, is well formed, and belongs to no phase. -/
theorem frameOf_spec {c i : Byte} {p : List Byte} (a b : Byte) (hp : p.length ≤ maxPayload) :
    WellFormed (frameOf c i p a b) = true ∧ rowPhase (frameOf c i p a b) = none ∧
      encode (frameOf c i p a b) = { port := .wire, bytes := wireBytes c i p a b } := by
  cases hshape : isAckShape c i p with
  | true =>
    obtain ⟨rfl, rfl | rfl, x, y, rfl⟩ := isAckShape_iff.mp hshape <;> exact ⟨rfl, rfl, rfl⟩
  | false =>
    rw [frameOf_of_not_ack a b hshape]
    exact ⟨by simp [WellFormed, hp, hshape], rfl, rfl⟩

/-! A register number and a value are read back from their four bytes each (log entry 2). -/

section
variable (ph : Phase) (w v : Word)

theorem decode_hostRead : decode ph { port := .hostRead, bytes := bytes32 w } = .ok (.rd w.toNat) := by
  simp [decode, bytes32]

theorem decode_hostWrite :
    decode ph { port := .hostWrite, bytes := bytes32 w ++ bytes32 v } = .ok (.wr w.toNat v) := by
  simp [decode, bytes32]

theorem decode_cmd : decode ph { port := .cmd, bytes := bytes32 v } = .ok (decodeCmd v) := by
  simp [decode, bytes32]

end

theorem sync1Byte_ne_sync2Byte : sync1Byte ≠ sync2Byte := by decide

/-- The row that the pair (`PHASE`, byte) selects is a well-formed row of that phase with that received byte. -/
theorem select_spec (ph : Phase) (x : Byte) :
    rowPhase (select ph x) = some ph ∧ WellFormed (select ph x) = true ∧
      encode (select ph x) = { port := .rxByte, bytes := [x] } := by
  cases ph with
  | hunt1 =>
    by_cases h : x = sync1Byte <;> simp [select, h, rowPhase, WellFormed, encode]
  | hunt2 =>
    by_cases h2 : x = sync2Byte
    · simp [select, h2, rowPhase, WellFormed, encode]
    · by_cases h1 : x = sync1Byte <;>
        simp [select, h1, h2, sync1Byte_ne_sync2Byte, rowPhase, WellFormed, encode]
  | cls | id | lenLo | lenHi | payload | ckA | ckB => exact ⟨rfl, rfl, rfl⟩

/-- Settles O1: row by row; a frame by its wire image, a number by its four bytes. -/
theorem decodeOfEncodeIsIdentity : Obligations.DecodeOfEncodeIsIdentity := by
  intro i ph hwf hrow
  cases i with
  | skip | sync1 | sync2 | resync1 | desync | cls | idb | lenl | lenh | payl | cka | ckb =>
    obtain rfl : _ = ph := by simpa [rowPhase] using hrow
    simp_all [WellFormed, encode, decode, select, sync1Byte_ne_sync2Byte]
  | frame c i p a b =>
    obtain ⟨hp, hshape⟩ : p.length ≤ maxPayload ∧ isAckShape c i p = false := by simpa [WellFormed] using hwf
    exact (decodeWire_wireBytes a b hp).trans (congrArg Except.ok (frameOf_of_not_ack a b hshape))
  | ackAck c i a b | ackNak c i a b => exact decodeWire_wireBytes a b (by simp [maxPayload])
  | rd i =>
    have hi : i < 2 ^ 32 := of_decide_eq_true hwf
    rw [encode, decode_hostRead, BitVec.toNat_ofNat, Nat.mod_eq_of_lt hi]
  | wr i v =>
    have hi : i < 2 ^ 32 := of_decide_eq_true hwf
    rw [encode, decode_hostWrite, BitVec.toNat_ofNat, Nat.mod_eq_of_lt hi]
  | flush | abort => exact decode_cmd ph _
  | encode | rx | reset => rfl

/-- Settles O3: decoding the one-byte request gives the selected operation, and any other row with that request is what
it decodes to. -/
theorem phaseAndByteSelectExactlyOneOperation : Obligations.PhaseAndByteSelectExactlyOneOperation := by
  intro ph x
  refine ⟨select_spec ph x, fun i hrow hwf henc => ?_⟩
  have hdec := decodeOfEncodeIsIdentity i ph hwf (.inr hrow)
  rw [henc] at hdec
  exact (Except.ok.inj hdec).symm

/-- What a value for `CMD` decodes to is well formed and runs in every phase. -/
theorem decodeCmd_spec (v : Word) : WellFormed (decodeCmd v) = true ∧ rowPhase (decodeCmd v) = none := by
  unfold decodeCmd
  split
  · exact ⟨rfl, rfl⟩
  · split <;> exact ⟨rfl, rfl⟩

/-- Settles O2: port by port. -/
theorem decodedOperationsAreWellFormed : Obligations.DecodedOperationsAreWellFormed := by
  rintro ph ⟨port, bytes⟩ i h
  unfold decode at h
  cases port with
  | rxByte =>
    dsimp only at h
    split at h <;> cases h
    obtain ⟨hrow, hwf, henc⟩ := select_spec ph _
    exact ⟨hwf, .inr hrow, fun _ => henc⟩
  | wire =>
    obtain ⟨c, d, p, a, b, rfl, hp, rfl⟩ := decodeWire_ok h
    obtain ⟨hwf, hrow, henc⟩ := frameOf_spec a b hp
    exact ⟨hwf, .inl hrow, fun _ => henc⟩
  | hostRead =>
    dsimp only at h
    split at h <;> cases h
    exact ⟨decide_eq_true (BitVec.isLt _), .inl rfl, fun _ => by simp [encode]⟩
  | hostWrite =>
    dsimp only at h
    split at h <;> cases h
    exact ⟨decide_eq_true (BitVec.isLt _), .inl rfl, fun _ => by simp [encode]⟩
  | cmd =>
    dsimp only at h
    split at h <;> cases h
    obtain ⟨hwf, hrow⟩ := decodeCmd_spec (word32 _ _ _ _)
    exact ⟨hwf, .inl hrow, fun hport => absurd rfl hport⟩
  | encode | rx | reset =>
    dsimp only at h
    split at h <;> cases h
    exact ⟨rfl, .inl rfl, fun _ => rfl⟩

/-- Settles O4: each request is read by `decode` as it stands. -/
theorem wordsOfTheSpecDecode : Obligations.WordsOfTheSpecDecode := by
  unfold Obligations.WordsOfTheSpecDecode
  refine ⟨?_, ?_, ?_, ?_, ?_, ?_, ?_, ?_, ?_⟩ <;> rfl

end Sys2Proof
end

section
/-! Proofs about the receive path in every state, consistent or not (`41_decoder.md` R120, R121): what each `Step` and
each `Drain` reports, how long the candidate can get, and that the work bound of R135 is never reached. -/

namespace Sys2Proof.Machine

/-- Whatever a `Step` does is events put out with their counts, bytes counted as skipped, and the candidate. -/
theorem StepCase.reports {x : Byte} {s t : State} {r : List Byte} (h : StepCase x s t r) :
    ∃ es k, Reports es k s t := by
  cases h with
  | skip | resync1 => exact ⟨[], 1, by constructor <;> simp [countKind, SameOutside]⟩
  | desync => exact ⟨[], 2, by constructor <;> simp [countKind, SameOutside]⟩
  | lenhOversized =>
    exact ⟨[.oversized s.cls s.id (fullLen x s.len)], 1, by constructor <;> simp [countKind, eventKind, SameOutside]⟩
  | ckbAccept =>
    exact ⟨[.frame s.cls s.id s.len (bufRange (bufPush x s) 6 (6 + s.len.toNat))], 0,
      by constructor <;> simp [countKind, eventKind, SameOutside]⟩
  | ckbReject =>
    exact ⟨[.checksumError (bufBytes s ++ [x])], 1, by constructor <;> simp [countKind, eventKind, SameOutside]⟩
  | sync1 | sync2 | cls | idb | lenl | lenhEmpty | lenhPayload | paylLast | paylMore | cka =>
    exact ⟨[], 0, by constructor <;> simp [countKind, SameOutside]⟩

/-- A `Drain` that runs to its end: its first `Step` ran, and so did the `Drain` of what that left pending. -/
theorem drainAll_cons_ok {x : Byte} {p : List Byte} {s t : State} :
    drainAll (x :: p) s = .ok t ↔ ∃ u r, stepByte x s = .ok (u, r) ∧ drainAll (r ++ p) u = .ok t := by
  rw [drainAll_cons]
  cases stepByte x s with
  | error f => simp
  | ok ur => simp [Prod.ext_iff]

/-- A relation between states that every `Step` keeps and that can be chained holds from one end of a `Drain` to the
other. -/
theorem drainAll_rel {R : State → State → Prop} (refl : ∀ s, R s s) (trans : ∀ {s t u}, R s t → R t u → R s u)
    (step : ∀ {x s t r}, StepCase x s t r → R s t) {p : List Byte} {s t : State} (h : drainAll p s = .ok t) :
    R s t := by
  induction p, s using drain_induction with
  | nil s =>
    rw [drainAll_nil] at h
    exact Except.ok.inj h ▸ refl s
  | step x p s ih =>
    obtain ⟨u, r, hstep, hrest⟩ := drainAll_cons_ok.mp h
    exact trans (step (stepByte_cases hstep)) (ih u r hstep hrest)

theorem drainAll_reports {p : List Byte} {s t : State} (h : drainAll p s = .ok t) : ∃ es k, Reports es k s t :=
  drainAll_rel (R := fun s t => ∃ es k, Reports es k s t) (fun s => ⟨[], 0, .refl s⟩)
    (fun ⟨es, j, h⟩ ⟨fs, k, h'⟩ => ⟨es ++ fs, k + j, h.trans h'⟩) StepCase.reports h

/-- A `Step` stores a byte in its place, leaves the buffer, or empties it: the cells stay in rising order. -/
theorem StepCase.wf {x : Byte} {s t : State} {r : List Byte} (h : StepCase x s t r) (hs : Memory.wf s.buf) :
    Memory.wf t.buf := by
  cases h with
  | skip | resync1 => exact hs
  | desync | lenhOversized | ckbAccept | ckbReject => exact List.Pairwise.nil
  | sync1 | sync2 | cls | idb | lenl | lenhEmpty | lenhPayload | paylLast | paylMore | cka => exact memStore_wf hs _ _

theorem drainAll_wf {p : List Byte} {s t : State} (h : drainAll p s = .ok t) (hs : Memory.wf s.buf) :
    Memory.wf t.buf :=
  drainAll_rel (R := fun s t => Memory.wf s.buf → Memory.wf t.buf) (fun _ => id) (fun h h' => h' ∘ h)
    StepCase.wf h hs

/-- A `Drain` leaves no more bytes held than were held and pending: each `Step` holds its byte, drops bytes, or hands
back all but one. -/
theorem drainAll_n_le {p : List Byte} {s t : State} (h : drainAll p s = .ok t) : t.n ≤ s.n + p.length := by
  induction p, s using drain_induction with
  | nil s =>
    rw [drainAll_nil] at h
    exact Except.ok.inj h ▸ Nat.le_refl _
  | step x p s ih =>
    obtain ⟨u, r, hstep, hrest⟩ := drainAll_cons_ok.mp h
    have hle := ih u r hstep hrest
    rw [List.length_append] at hle
    rw [List.length_cons]
    rcases stepByte_measure hstep with ⟨rfl, hn⟩ | ⟨hn, hr⟩
    · rw [List.length_nil] at hle
      omega
    · omega

/-- A `Step` stops at a buffer access that does not exist, and at nothing else. -/
theorem stepByte_error {x : Byte} {s : State} {f : Fault} (h : stepByte x s = .error f) :
    ∃ a, f = .bufferAddress a := by
  have happend : ∀ {v g}, bufAppend v s = .error g → (Except.error g : StepResult) = .error f →
      ∃ a, f = .bufferAddress a := fun ha hg => ⟨s.n, Except.error.inj hg ▸ (bufAppend_error ha).1⟩
  cases hp : s.phase with
  | hunt1 =>
    simp only [stepByte, hp, stepSync1, stepSkip] at h
    split at h
    · split at h
      · exact happend ‹_› h
      · cases h
    · cases h
  | hunt2 =>
    simp only [stepByte, hp, stepSync2, stepResync1, stepDesync] at h
    split at h
    · split at h
      · exact happend ‹_› h
      · cases h
    · split at h <;> cases h
  | cls | id | lenLo | ckA =>
    simp only [stepByte, hp, stepCls, stepIdb, stepLenl, stepCka] at h
    split at h
    · exact happend ‹_› h
    · cases h
  | lenHi | payload =>
    simp only [stepByte, hp] at h
    by_cases hn : s.n < bufCap s
    · simp only [stepLenh_eq hn, stepPayl_eq hn] at h
      split_ifs at h
    · simp only [stepLenh, stepPayl] at h
      split at h
      · exact happend ‹_› h
      · exact absurd (bufAppend_cases ‹_›).2 hn
  | ckB =>
    simp only [stepByte, hp] at h
    by_cases hroom : s.n < bufCap s ∧ 6 + s.len.toNat < bufCap s
    · rw [stepCkb_eq hroom.1 hroom.2] at h
      split at h <;> cases h
    · unfold stepCkb at h
      split at h
      · exact happend ‹_› h
      · obtain ⟨rfl, hn⟩ := bufAppend_cases ‹_›
        split at h <;> rename_i hread
        · exact ⟨_, (Except.error.inj h).symm.trans (bufRead_error hread).1⟩
        · exact absurd ⟨hn, (bufRead_cases hread).2⟩ hroom

theorem drainAll_error {p : List Byte} {s : State} {f : Fault} (h : drainAll p s = .error f) :
    ∃ a, f = .bufferAddress a := by
  induction p, s using drain_induction with
  | nil s => rw [drainAll_nil] at h; cases h
  | step x p s ih =>
    rw [drainAll_cons] at h
    cases hstep : stepByte x s with
    | error g =>
      rw [hstep] at h
      exact Except.error.inj h ▸ stepByte_error hstep
    | ok tr =>
      rw [hstep] at h
      exact ih tr.1 tr.2 hstep h

/-- Settles O27: the fuel is `drainAll`'s, with which a `Drain` stops at a buffer address or not at all. -/
theorem replayEndsWithinTheWorkBound : Obligations.ReplayEndsWithinTheWorkBound := by
  intro p s h
  obtain ⟨a, ha⟩ := drainAll_error h
  cases ha

/-- Settles O44: the re-scan is given all the bytes but one. -/
theorem abortShortensTheCandidate : Obligations.AbortShortensTheCandidate := by
  intro s t hn h
  replace h : abortCandidate s = .ok t := finish_next.mp h
  rw [abortCandidate, if_neg (Nat.pos_iff_ne_zero.mp hn)] at h
  cases hslice : bufSlice s 1 s.n with
  | error f => simp [hslice] at h
  | ok p =>
    rw [hslice] at h
    have hle := drainAll_n_le h
    rw [(bufSlice_cases hslice).1, bufRange_length, clear_n] at hle
    omega

end Sys2Proof.Machine
end

section
/-! Proofs about the byte account (`41_decoder.md` R138): each byte of the stream is in an accepted frame, skipped, or
still held. -/

namespace Sys2Proof.Machine

/-- Each round of `Scan` accounts for the bytes it takes; that it ran out of fuel is no exception. -/
theorem scanLoop_account (maxLen : Nat) : ∀ (fuel : Nat) (buf : List Byte),
    frameBytes (scanLoop maxLen fuel buf).events + (scanLoop maxLen fuel buf).skipped +
      (scanLoop maxLen fuel buf).rest.length = buf.length := by
  intro fuel
  induction fuel with
  | zero => intro buf; simp [scanLoop, frameBytes]
  | succ fuel ih =>
    intro buf
    cases buf with
    | nil => rfl
    | cons b tail =>
      have htail := ih tail
      simp only [scanLoop]
      split
      · simp only [ScanResult.skip, List.length_cons]
        omega
      · split
        next c i l h more heq =>
          split
          · simp only [ScanResult.report, ScanResult.skip, frameBytes, List.length_cons]
            omega
          · split
            next x y after hdrop =>
              split
              · have hlen := congrArg List.length hdrop
                have hmore := congrArg List.length heq
                have hafter := ih after
                have hle := frameLen_le l h
                simp only [List.length_drop, List.length_cons, maxPayload] at hlen hmore hle
                simp only [ScanResult.report, frameBytes, BitVec.toNat_ofNat, List.length_cons,
                  Nat.mod_eq_of_lt (show frameLen l h < 2 ^ 16 by omega)]
                omega
              · simp only [ScanResult.report, ScanResult.skip, frameBytes, List.length_cons]
                omega
            · simp [frameBytes]
        · simp [frameBytes]

/-- Every byte that `Scan` is given is in an accepted frame, skipped, or in the remaining buffer. -/
theorem scan_account (maxLen : Nat) (buf : List Byte) :
    frameBytes (scan maxLen buf).events + (scan maxLen buf).skipped + (scan maxLen buf).rest.length = buf.length :=
  scanLoop_account maxLen _ buf

@[simp] theorem frameBytes_append (es fs : List Event) : frameBytes (es ++ fs) = frameBytes es + frameBytes fs := by
  induction es with
  | nil => simp [frameBytes]
  | cons e es ih => cases e <;> simp [frameBytes, ih, Nat.add_assoc]

/-- `Drain` from a consistent state, as long as `SKIP_CNT` has not saturated: the pending bytes are the growth of the
bytes in `Frame` events, of `SKIP_CNT` and of `N`. -/
theorem Consistent.drainAll_account {p : List Byte} {s t : State} (hs : Consistent s) (h : drainAll p s = .ok t)
    (hsat : t.skipCnt.toNat < 4294967295) :
    p.length + frameBytes s.evq + s.skipCnt.toNat + s.n = frameBytes t.evq + t.skipCnt.toNat + t.n := by
  obtain ⟨t', hdrain, -, hrest, hreports⟩ := hs.drainAll_scan p
  obtain rfl : t' = t := Except.ok.inj (hdrain.symm.trans h)
  have haccount := scan_account s.cfg.maxLen.toNat (bufBytes s ++ p)
  rw [← hrest, List.length_append, bufBytes_length, bufBytes_length] at haccount
  have hskip := satAdd_toNat s.skipCnt (scan s.cfg.maxLen.toNat (bufBytes s ++ p)).skipped
  rw [← hreports.skipCnt] at hskip
  rw [hreports.evq, frameBytes_append]
  omega

/-- Settles O31: `RX*` is `Drain`, which accounts for its bytes as `Scan` does. -/
theorem everyReceivedByteIsAccountedFor : Obligations.EveryReceivedByteIsAccountedFor := by
  intro bs s t hs h
  exact hs.drainAll_account ((rxBytes_eq_drainAll bs s).symm.trans h)

/-- Settles O32: `FLUSH` counts all `N` bytes as skipped; `ABORT` counts one, and the re-scan accounts for the
others. -/
theorem flushAndAbortKeepTheByteAccount : Obligations.FlushAndAbortKeepTheByteAccount := by
  rintro i s t (rfl | rfl) hs h hsat
  · obtain rfl : flushCandidate s = t := Host.Outcome.next.inj h
    have hskip : (flushCandidate s).skipCnt.toNat = _ := satAdd_toNat s.skipCnt s.n
    rw [flushCandidate_n, show (flushCandidate s).evq = s.evq from rfl]
    omega
  · replace h : abortCandidate s = .ok t := finish_next.mp h
    by_cases hn : s.n = 0
    · obtain rfl : s = t := Except.ok.inj ((abortCandidate_of_n_zero hn).symm.trans h)
      rfl
    · rw [abortCandidate_of_n_pos (Nat.pos_of_ne_zero hn) hs.room.le] at h
      have hlow := (consistent_clear (bumpSkip 1 (bumpAbort s))).drainAll_account h hsat
      obtain ⟨es, k, hreports⟩ := drainAll_reports h
      have hgrow := le_satAdd (satAdd s.skipCnt 1) k
      rw [← show t.skipCnt = satAdd (satAdd s.skipCnt 1) k from hreports.skipCnt] at hgrow
      have hskip := satAdd_toNat s.skipCnt 1
      simp only [clear_evq, bumpSkip_evq, bumpAbort_evq, clear_skipCnt, bumpSkip_skipCnt, bumpAbort_skipCnt, clear_n,
        bufRange_length] at hlow
      omega

end Sys2Proof.Machine
end

section
/-! Proofs about frames in the stream (`41_decoder.md` R139 to R141): a frame received, one byte of it wrong, and
garbage before it; each is read off `Scan`. -/

namespace Sys2Proof.Machine

section
variable {maxLen : Nat} {c i : Byte} {p : List Byte}

/-- A frame at the head of the buffer: accepted, or an event and the scan goes on one byte later. -/
theorem scan_wireBytes (a b : Byte) (rest : List Byte) (hp : p.length ≤ maxLen) (hmax : p.length ≤ maxPayload) :
    scan maxLen (wireBytes c i p a b ++ rest) =
      if ckSeq (frameBody c i p) = (a, b) then
        (scan maxLen rest).after [.frame c i (BitVec.ofNat 16 p.length) p] 0
      else
        (scan maxLen ((wireBytes c i p a b).drop 1 ++ rest)).after [.checksumError (wireBytes c i p a b)] 1 := by
  have hlen := frameLen_low_high hmax
  have hscan := scan_complete (maxLen := maxLen) (c := c) (i := i) (a := a) (b := b) rest hlen.symm (hlen.symm ▸ hp)
  rw [hlen] at hscan
  simpa [wireBytes, frameBody] using hscan

/-- A frame too long for the block at the head of the buffer. -/
theorem scan_wireBytes_oversized (a b : Byte) (hp : maxLen < p.length) (hmax : p.length ≤ maxPayload) :
    scan maxLen (wireBytes c i p a b) =
      (scan maxLen ((wireBytes c i p a b).drop 1)).after [.oversized c i (BitVec.ofNat 16 p.length)] 1 := by
  have hlen := frameLen_low_high hmax
  have hscan := scan_oversized (c := c) (i := i) (p ++ [a, b]) (hlen.symm ▸ hp)
  rw [hlen] at hscan
  exact hscan

/-- Garbage without a sync marker, then a marker: the garbage is skipped, a last `B5` in it included. -/
theorem scan_garbage (rest : List Byte) : ∀ g : List Byte, ¬[sync1Byte, sync2Byte] <:+: g →
    scan maxLen (g ++ sync1Byte :: sync2Byte :: rest) =
      (scan maxLen (sync1Byte :: sync2Byte :: rest)).after [] g.length
  | [], _ => rfl
  | b :: g, hg => by
    have hstart : startsCandidate (b :: (g ++ sync1Byte :: sync2Byte :: rest)) = false := by
      cases g with
      | nil => simp [startsCandidate, sync1Byte, sync2Byte]
      | cons d g =>
        refine Bool.eq_false_iff.mpr fun h => hg ?_
        obtain ⟨rfl, rfl⟩ : b = sync1Byte ∧ d = sync2Byte := by simpa [startsCandidate] using h
        exact ⟨[], g, rfl⟩
    have hmore : ¬[sync1Byte, sync2Byte] <:+: g := fun h => hg (h.trans (List.suffix_cons b g).isInfix)
    rw [List.cons_append, scan_skip hstart, scan_garbage rest g hmore]
    rfl

end

/-- Consistency looks at the candidate and the parameters only, not at what is counted, put out or presented. -/
theorem Consistent.sameCandidate {s t : State} (hs : Consistent s)
    (h : t = { s with
      frameCnt := t.frameCnt, ckerrCnt := t.ckerrCnt, ovszCnt := t.ovszCnt, skipCnt := t.skipCnt,
      abortCnt := t.abortCnt, evq := t.evq, txq := t.txq, rdq := t.rdq, input := t.input }) : Consistent t :=
  h ▸ ⟨hs.cells, hs.bound, hs.phase, hs.pending, hs.lenBound, hs.sync1, hs.sync2, hs.cls, hs.id, hs.len, hs.ck⟩

section
variable {s : State} (hs : Consistent s) (hn : s.n = 0)
include hs hn

/-- `RX*` that leaves nothing held: the state it began in, with the events of the scan and their counts. -/
theorem Consistent.rxBytes_of_scan {bs : List Byte} {es : List Event} {k : Nat}
    (hscan : scan s.cfg.maxLen.toNat bs = { events := es, skipped := k, rest := [] }) :
    rxBytes bs s = .ok { s with
      evq := s.evq ++ es, skipCnt := satAdd s.skipCnt k, frameCnt := satAdd s.frameCnt (countKind 1#2 es),
      ckerrCnt := satAdd s.ckerrCnt (countKind 2#2 es), ovszCnt := satAdd s.ovszCnt (countKind 3#2 es) } := by
  obtain ⟨t, hdrain, ht, hrest, hevq, hskip, hframe, hckerr, hovsz, habort, htxq, hrdq, hinput, hcfg⟩ :=
    hs.drainAll_scan bs
  rw [bufBytes_of_n_zero hn, List.nil_append, hscan] at hrest hevq hskip hframe hckerr hovsz
  have htn : t.n = 0 := by rw [← bufBytes_length, hrest, List.length_nil]
  rw [rxBytes_eq_drainAll, hdrain]
  refine congrArg Except.ok ?_
  calc
    t = clear t := (ht.clear_of_n_zero htn).symm
    _ = clear { s with
        evq := s.evq ++ es, skipCnt := satAdd s.skipCnt k, frameCnt := satAdd s.frameCnt (countKind 1#2 es),
        ckerrCnt := satAdd s.ckerrCnt (countKind 2#2 es), ovszCnt := satAdd s.ovszCnt (countKind 3#2 es) } := by
      simp only [clear, hevq, hskip, hframe, hckerr, hovsz, habort, htxq, hrdq, hinput, hcfg]
    _ = _ := (hs.sameCandidate rfl).clear_of_n_zero hn

/-- `RX*` whose scan begins with an event puts that event out first. -/
theorem Consistent.rxBytes_first_event {bs : List Byte} {r : ScanResult} {e : Event} {k : Nat}
    (hscan : scan s.cfg.maxLen.toNat bs = r.after [e] k) :
    ∃ t, rxBytes bs s = .ok t ∧ s.evq ++ [e] <+: t.evq := by
  obtain ⟨t, hdrain, -, -, hreports⟩ := hs.drainAll_scan bs
  have hevq := hreports.evq
  rw [bufBytes_of_n_zero hn, List.nil_append, hscan] at hevq
  exact ⟨t, (rxBytes_eq_drainAll bs s).trans hdrain, r.events, by rw [hevq, List.append_assoc]; rfl⟩

end

/-- A frame with its right checksum and one wrong byte among class, id, payload and checksum is a frame of the same
length whose checksum is wrong. -/
theorem wireBytes_set {c i a b v : Byte} {p : List Byte} {k : Nat} (hck : ckSeq (frameBody c i p) = (a, b))
    (hk : k = 2 ∨ k = 3 ∨ (6 ≤ k ∧ k ≤ 7 + p.length)) (hv : (wireBytes c i p a b)[k]? ≠ some v) :
    ∃ c' i' p' a' b', (wireBytes c i p a b).set k v = wireBytes c' i' p' a' b' ∧ p'.length = p.length ∧
      ckSeq (frameBody c' i' p') ≠ (a', b') := by
  rcases hk with rfl | rfl | ⟨h6, hle⟩
  · exact ⟨v, i, p, a, b, rfl, rfl, hck ▸ ckSeq_set_ne (s := frameBody c i p) (j := 0) (by simp [frameBody]) hv⟩
  · exact ⟨c, v, p, a, b, rfl, rfl, hck ▸ ckSeq_set_ne (s := frameBody c i p) (j := 1) (by simp [frameBody]) hv⟩
  · obtain ⟨j, rfl⟩ := Nat.exists_eq_add_of_le' h6
    have hset : (wireBytes c i p a b).set (j + 6) v =
        sync1Byte :: sync2Byte :: c :: i :: lenLow p.length :: lenHigh p.length :: (p ++ [a, b]).set j v := rfl
    replace hv : (p ++ [a, b])[j]? ≠ some v := hv
    rw [hset, List.set_append]
    split
    next hj =>
      rw [List.getElem?_append_left hj] at hv
      have hbody : frameBody c i (p.set j v) = (frameBody c i p).set (j + 4) v := by
        rw [frameBody, List.length_set]
        rfl
      refine ⟨c, i, p.set j v, a, b, ?_, List.length_set, ?_⟩
      · rw [wireBytes, hbody]
        rfl
      · rw [hbody, ← hck]
        exact ckSeq_set_ne (by simpa [frameBody] using hj) hv
    next hj =>
      rw [List.getElem?_append_right (by omega)] at hv
      obtain hlast | hlast : j - p.length = 0 ∨ j - p.length = 1 := by omega
      all_goals rw [hlast] at hv ⊢
      · exact ⟨c, i, p, v, b, rfl, rfl, fun h => hv (congrArg some (Prod.mk.inj (hck.symm.trans h)).1)⟩
      · exact ⟨c, i, p, a, v, rfl, rfl, fun h => hv (congrArg some (Prod.mk.inj (hck.symm.trans h)).2)⟩

/-- A payload up to `MAX_LEN` can be expressed by the length field. -/
theorem le_maxPayload {k : Nat} {s : State} (h : k ≤ s.cfg.maxLen.toNat) : k ≤ maxPayload := by
  have := s.cfg.maxLen.isLt
  rw [maxPayload]
  omega

/-- An encoded frame is accepted whole. -/
theorem scan_encodeFrame {s : State} (c i : Byte) {p : List Byte} (hp : p.length ≤ s.cfg.maxLen.toNat) :
    scan s.cfg.maxLen.toNat (encodeFrame c i p) =
      { events := [.frame c i (BitVec.ofNat 16 p.length) p], skipped := 0, rest := [] } := by
  have hscan := scan_wireBytes (c := c) (i := i) (ckSeq (frameBody c i p)).1 (ckSeq (frameBody c i p)).2 [] hp
    (le_maxPayload hp)
  rwa [if_pos rfl, List.append_nil] at hscan

/-- From a consistent state with nothing pending, garbage without a sync marker and an encoded frame are received as
that frame, the garbage counted as skipped. -/
theorem Consistent.rxBytes_garbage_encodeFrame {s : State} (hs : Consistent s) (hn : s.n = 0) {g : List Byte}
    (c i : Byte) {p : List Byte} (hp : p.length ≤ s.cfg.maxLen.toNat) (hg : ¬[sync1Byte, sync2Byte] <:+: g) :
    rxBytes (g ++ encodeFrame c i p) s = .ok { s with
      skipCnt := satAdd s.skipCnt g.length,
      evq := s.evq ++ [.frame c i (BitVec.ofNat 16 p.length) p], frameCnt := satAdd s.frameCnt 1 } := by
  have hscan : scan s.cfg.maxLen.toNat (g ++ encodeFrame c i p) =
      (scan s.cfg.maxLen.toNat (encodeFrame c i p)).after [] g.length := scan_garbage _ g hg
  rw [scan_encodeFrame c i hp] at hscan
  have hrx := hs.rxBytes_of_scan hn hscan
  simpa [countKind, eventKind] using hrx

/-- Settles O38: `Scan` skips the garbage and then has the frame before it. -/
theorem resynchronisationOverGarbage : Obligations.ResynchronisationOverGarbage :=
  fun _ c i _ _ hs hn hp hg => hs.rxBytes_garbage_encodeFrame hn c i hp hg

/-- Settles O33: the case without garbage. -/
theorem roundTripOfEncodedFrames : Obligations.RoundTripOfEncodedFrames := by
  intro c i p s hs hn hp
  have hrx := hs.rxBytes_garbage_encodeFrame hn (g := []) c i hp (by simp)
  simpa using hrx

/-- Settles O37: what is received is a frame whose length is right and whose checksum is not. -/
theorem singleByteCorruptionIsReported : Obligations.SingleByteCorruptionIsReported := by
  intro c i p k v s hs hn hp hk hv
  obtain ⟨c', i', p', a, b, hset, hlen, hck⟩ := wireBytes_set (Prod.mk.eta (p := ckSeq (frameBody c i p))).symm hk hv
  rw [← hlen] at hp
  have hscan := scan_wireBytes (c := c') (i := i') a b [] hp (le_maxPayload hp)
  rw [if_neg hck, List.append_nil, List.append_nil] at hscan
  rw [encodeFrame, hset]
  exact hs.rxBytes_first_event hn hscan

/-- Settles O34: `FRAME` is `RX*` of the encoded frame; above `MAX_LEN` its scan begins with the event. -/
theorem frameIsReceived : Obligations.FrameIsReceived := by
  intro c i p s hs hn hmax
  refine ⟨fun hp => congrArg finish (roundTripOfEncodedFrames c i p s hs hn hp), fun hp => ?_⟩
  obtain ⟨t, hrx, hfirst⟩ := hs.rxBytes_first_event hn (scan_wireBytes_oversized (c := c) (i := i)
    (ckSeq (frameBody c i p)).1 (ckSeq (frameBody c i p)).2 hp hmax)
  exact ⟨t, finish_next.mpr hrx, hfirst⟩

/-- The checksummed bytes of an acknowledgement frame (R89). -/
theorem frameBody_ack (id c i : Byte) : frameBody ackClass id [c, i] = [0x05#8, id, 0x02#8, 0x00#8, c, i] := by
  simp [frameBody, lenLow, lenHigh, ackClass]

/-- Settles O35: they are the encoded frames of class `05`, id `01` or `00`, with the two payload bytes. -/
theorem acknowledgementsAreReceived : Obligations.AcknowledgementsAreReceived := by
  intro c i s hs hn hmax
  have hack := roundTripOfEncodedFrames ackClass ackId [c, i] s hs hn hmax
  have hnak := roundTripOfEncodedFrames ackClass nakId [c, i] s hs hn hmax
  rw [encodeFrame, frameBody_ack] at hack hnak
  exact ⟨congrArg finish hack, congrArg finish hnak⟩

/-- Settles O36: `RX*` is `Drain` of the whole list, and the acknowledgement rows have the bytes of those frames. -/
theorem wireOperationsAreRxOfEachByte : Obligations.WireOperationsAreRxOfEachByte := by
  intro c i a b p s
  exact ⟨congrArg finish (rxBytes_eq_drainAll (wireBytes c i p a b) s), rfl, rfl⟩

end Sys2Proof.Machine
end

section
/-! Proofs about the selection of the per-byte rows (`30_encoding.md` R94, `41_decoder.md` R121): a row runs where it is
selected, and then it is the `Step` of its byte. -/

namespace Sys2Proof.Machine

/-- Only a selected operation's `Step` matters. -/
theorem whenSelected_congr {b b' : Bool} {r r' : StepResult} (hb : b = b') (hr : b = true → r = r') :
    whenSelected b r = whenSelected b' r' := by
  subst hb
  cases b with
  | false => rfl
  | true => rw [hr rfl]

/-- A per-byte row has one received byte, and runs as the `Step` of that byte in the phase of the row. -/
theorem exec_row {i : Instr} {ph : Phase} (hrow : rowPhase i = some ph) (s : State) :
    ∃ x, encode i = { port := .rxByte, bytes := [x] } ∧
      exec i s = whenSelected (decide (s.phase = ph) && WellFormed i) (stepByte x s) := by
  cases i with
  | skip | sync1 | sync2 | resync1 | desync | cls | idb | lenl | lenh | payl | cka | ckb =>
    obtain rfl := Option.some.inj hrow
    refine ⟨_, rfl, whenSelected_congr (Bool.eq_iff_iff.mpr (by simp [WellFormed])) fun h => ?_⟩
    have hsel := of_decide_eq_true h
    simp [stepByte, hsel, sync1Byte_ne_sync2Byte]
  | frame | ackAck | ackNak | rd | wr | flush | abort | encode | rx | reset => cases hrow

/-- The row selected runs as the `Step` of the byte, with its replay. -/
theorem exec_select (x : Byte) (s : State) : exec (select s.phase x) s = finish (settle (stepByte x s)) := by
  obtain ⟨hrow, hwf, henc⟩ := select_spec s.phase x
  obtain ⟨y, henc', hexec⟩ := exec_row hrow s
  obtain rfl : x = y := by simpa using henc.symm.trans henc'
  rw [hexec, hwf]
  simp [whenSelected]

/-- `Drain` of one byte is its `Step` with the replay (R120). -/
theorem rxByte_eq_settle (x : Byte) (s : State) : rxByte x s = settle (stepByte x s) := by
  rw [rxByte, drainAll_cons]
  cases stepByte x s with
  | error f => rfl
  | ok tr => simp [settle]

/-- Settles O25: both are the `Step` of the byte with its replay. -/
theorem rxPerformsTheSelectedOperation : Obligations.RxPerformsTheSelectedOperation := by
  intro b s
  rw [exec_select, ← rxByte_eq_settle]
  rfl

/-- Settles O24: in another phase the selection of the row is false. -/
theorem unselectedOperationsAreRefused : Obligations.UnselectedOperationsAreRefused := by
  intro i ph s hrow hph
  obtain ⟨x, -, hexec⟩ := exec_row hrow s
  rw [hexec, decide_eq_false (Ne.symm hph)]
  rfl

end Sys2Proof.Machine
end

section
/-! Proofs about the operations that can reject (`41_decoder.md` R130, R133; `60_exceptions.md` R192 to R195): what
`LENH` and `CKB` leave, and the replay that a reject causes. -/

namespace Sys2Proof.Machine

/-- A selected operation runs with the replay its `Step` asks for. -/
theorem whenSelected_replay {b : Bool} {r : StepResult} {t : State} {replay : List Byte} (hb : b = true)
    (hr : r = .ok (t, replay)) : whenSelected b r = finish (drainAll replay t) := by
  rw [hb, hr]
  rfl

/-- A replay from the emptied block runs to its end, and what was put out before it comes first. -/
theorem exists_finish_drainAll_clear (p : List Byte) (u : State) :
    ∃ t, finish (drainAll p (clear u)) = .next t ∧ u.evq <+: t.evq := by
  obtain ⟨t, hdrain, -⟩ := (consistent_clear u).drainAll_ok p
  obtain ⟨es, k, hreports⟩ := drainAll_reports hdrain
  exact ⟨t, finish_next.mpr hdrain, es, hreports.evq.symm⟩

/-- Settles O17: the length with its high byte in is compared with `MAX_LEN`, and 0 goes to the checksum. -/
theorem lenhAcceptsLengthsUpToMaxLen : Obligations.LenhAcceptsLengthsUpToMaxLen := by
  intro x s hp hn hl
  have hlen := fullLen_toNat x s.len
  rw [← hlen] at hl ⊢
  have hzero : fullLen x s.len = 0#16 ↔ (fullLen x s.len).toNat = 0 := by rw [← BitVec.toNat_inj]; rfl
  have hstep : stepLenh x s = .ok (setPhase (if (fullLen x s.len).toNat = 0 then .ckA else .payload)
      (accumulate x (setLen (fullLen x s.len) (bufPush x s))), []) := by
    rw [stepLenh_eq hn, if_neg (Nat.not_lt.mpr hl)]
    simp only [hzero]
    split <;> rfl
  refine ⟨_, whenSelected_ok (decide_eq_true hp) hstep, rfl, rfl, rfl, rfl, appendsByte_of_buf rfl rfl, fun hs => ?_,
    rfl, rfl, by simp [SameCounters, SameOutputs, SameOutside]⟩
  have hn5 : s.n = 5 := hs.phaseRange hp
  have hold : bufByte (bufPush x s) 4 = bufByte s 4 := bufByte_bufPush_other s x (by omega)
  have hnew : bufByte (bufPush x s) 5 = x := hn5 ▸ bufByte_bufPush_same s x
  have hfield : (fullLen x s.len).toNat = frameLen (bufByte (bufPush x s) 4) (bufByte (bufPush x s) 5) := by
    rw [hold, hnew, hs.fullLen_eq hn5]
  exact ⟨congrArg (· + 1) hn5, hfield⟩

/-- Settles O18: `raise` reports the header, counts and clears, and hands back all but the first byte. -/
theorem lenhRejectsOversized : Obligations.LenhRejectsOversized := by
  intro x s hp hn hl
  rw [← fullLen_toNat] at hl ⊢
  rw [BitVec.ofNat_toNat, BitVec.setWidth_eq]
  have hstep := stepLenh_eq (x := x) hn
  rw [if_pos hl] at hstep
  exact whenSelected_replay (decide_eq_true hp) hstep

/-- Fewer than six bytes hold no whole header, so their scan has no event. -/
theorem scan_events_of_short {maxLen : Nat} : ∀ buf : List Byte, buf.length < 6 → (scan maxLen buf).events = []
  | [], _ => rfl
  | b :: tail, h => by
    cases hstart : startsCandidate (b :: tail) with
    | true => rw [scan_short hstart h]
    | false =>
      rw [scan_skip hstart]
      exact scan_events_of_short tail (by rw [List.length_cons] at h; omega)

/-- The scan of an oversized header: its event, its marker skipped, and four bytes of which each is skipped or left. -/
theorem scan_oversized_header {maxLen : Nat} {c i l h : Byte} (hl : maxLen < frameLen l h) :
    ∃ k rest, scan maxLen [sync1Byte, sync2Byte, c, i, l, h] =
      { events := [.oversized c i (BitVec.ofNat 16 (frameLen l h))], skipped := k + 2, rest := rest } ∧
      k + rest.length = 4 := by
  have hmarker : scan maxLen [sync2Byte, c, i, l, h] = (scan maxLen [c, i, l, h]).after [] 1 := scan_skip (by rfl)
  have hevents := scan_events_of_short (maxLen := maxLen) [c, i, l, h] (by simp)
  have haccount := scan_account maxLen [c, i, l, h]
  rw [hevents, frameBytes, Nat.zero_add] at haccount
  refine ⟨_, _, ?_, haccount⟩
  rw [scan_oversized [] hl, hmarker]
  simp [ScanResult.after, hevents]

/-- Settles O19: the operation is `RX` of its byte, and so the scan of the six bytes of the candidate. -/
theorem oversizedReplayHoldsOrSkipsEveryByte : Obligations.OversizedReplayHoldsOrSkipsEveryByte := by
  intro x s hs hp hl
  have hn5 : s.n = 5 := hs.phaseRange hp
  have hexec : exec (.lenh x) s = finish (drainAll [x] s) := by
    have hsel := rxPerformsTheSelectedOperation x s
    rw [hp] at hsel
    exact hsel.symm
  have hlen : s.len.toNat % 256 + 256 * x.toNat = frameLen (bufByte s 4) x := by
    rw [← fullLen_toNat, hs.fullLen_eq hn5]
  rw [hlen] at hl ⊢
  obtain ⟨t, hdrain, ht, hrest, hreports⟩ := hs.drainAll_scan [x]
  obtain ⟨k, rest, hscan, hk⟩ := scan_oversized_header (c := s.cls) (i := s.id) hl
  rw [hs.bufBytes_of_n_five hn5, List.cons_append, List.cons_append, List.cons_append, List.cons_append,
    List.singleton_append, hscan] at hrest hreports
  have htn : t.n = rest.length := by rw [← bufBytes_length, hrest]
  have hframe := hreports.frameCnt
  have hckerr := hreports.ckerrCnt
  refine ⟨t, hexec.trans (finish_next.mpr hdrain), ht, by omega, hreports.evq, ?_, hreports.ovszCnt,
    by simpa [countKind, eventKind] using hframe, by simpa [countKind, eventKind] using hckerr, hreports.abortCnt,
    hreports.txq, hreports.rdq, hreports.outside⟩
  rw [hreports.skipCnt, show 6 - t.n = k + 2 by omega]

/-- Settles O23: `raise` reports, counts and clears; that it completes, and with this event first, is the scan. -/
theorem ckbRejectsAMismatch : Obligations.CkbRejectsAMismatch := by
  intro x s hs hp hne
  have hn := hs.n_of_ckB hp
  have hstep := stepCkb_eq (x := x) hs.room (hs.ckA_room (by omega))
  have hreplay : (bufBytes s ++ [x]).drop 1 = bufRange s 1 s.n ++ [x] := by
    rw [List.drop_append_of_le_length (by rw [bufBytes_length]; omega), bufBytes, bufRange_drop_one]
  rw [bufByte_bufPush_other s x (by omega), if_neg hne, hreplay] at hstep
  have hexec : exec (.ckb x) s = _ := whenSelected_replay (decide_eq_true hp) hstep
  refine ⟨by rw [List.length_append, bufBytes_length, List.length_singleton]; omega, hexec, ?_⟩
  rw [hexec]
  exact exists_finish_drainAll_clear _ _

/-- Settles O30: while hunting, `62` is one skipped byte and is not stored. -/
theorem droppingOneByteOrTwoIsTheSame : Obligations.DroppingOneByteOrTwoIsTheSame := by
  intro p s hp
  have hstep : stepByte 0x62#8 s = .ok (bumpSkip 1 s, []) := by
    simp [stepByte, hp, sync1Byte, stepSkip]
  rw [drainAll_cons, hstep]
  rfl

end Sys2Proof.Machine
end

section
/-! Proofs about the operations as a whole: everything an operation that answers a next state can do, in every state,
and what follows for the counters, the output histories and the buffer (`10_state.md` R35, R48, `20_memory.md` R61,
`70_reset_and_hazards.md` R221). -/

namespace Sys2Proof.Machine

/-- Everything an operation can do when it answers a next state: a `Drain` of received bytes (each per-byte row, each
frame, `RX`), a command, or one of the three operations outside the receive path. -/
inductive ExecCase (s : State) : Instr → State → Prop where
  | receive {i : Instr} {p : List Byte} {t : State} (h : drainAll p s = .ok t) : ExecCase s i t
  | idle {i : Instr} : ExecCase s i s
  | flush {i : Instr} : ExecCase s i (flushCandidate s)
  | abort {i : Instr} {p : List Byte} {t : State} (hi : i = .abort ∨ ∃ v, i = .wr 9 v)
      (h : drainAll p (clear (bumpSkip 1 (bumpAbort s))) = .ok t) : ExecCase s i t
  | encode (c d : Byte) (p : List Byte) : ExecCase s (.encode c d p) (send (encodeFrame c d p) s)
  | rd (r : Nat) : ExecCase s (.rd r) (returnWord (hostReg s r) s)
  | reset : ExecCase s .reset (zeroCounters (clear s))

section
variable {s t : State}

/-- `ABORT` does nothing, or it re-scans some bytes from the emptied block (R173). -/
theorem abortCandidate_cases (h : abortCandidate s = .ok t) :
    t = s ∨ ∃ p, drainAll p (clear (bumpSkip 1 (bumpAbort s))) = .ok t := by
  unfold abortCandidate at h
  split at h
  · exact .inl (Except.ok.inj h).symm
  · split at h
    · cases h
    · exact .inr ⟨_, h⟩

/-- A write to `CMD` does nothing, or it is `FLUSH`, or `ABORT` (R171, R174). -/
theorem writeCmd_cases {v : Word} (h : writeCmd v s = .ok t) :
    t = s ∨ t = flushCandidate s ∨ abortCandidate s = .ok t := by
  cases h0 : v.getLsbD 0 <;> cases h1 : v.getLsbD 1
  · rw [writeCmd_of_neither s h0 h1] at h
    exact .inl (Except.ok.inj h).symm
  · rw [writeCmd_of_abort s h0 h1] at h
    exact .inr (.inr h)
  · rw [writeCmd_of_flush s h0 h1] at h
    exact .inr (.inl (Except.ok.inj h).symm)
  · rw [writeCmd_of_both s h0 h1, abortCandidate_of_n_zero (flushCandidate_n s)] at h
    exact .inr (.inl (Except.ok.inj h).symm)

/-- The command `ABORT`, by either row. -/
theorem ExecCase.of_abortCandidate {i : Instr} (hi : i = .abort ∨ ∃ v, i = .wr 9 v)
    (h : abortCandidate s = .ok t) : ExecCase s i t := by
  obtain rfl | ⟨p, hp⟩ := abortCandidate_cases h
  · exact .idle
  · exact .abort hi hp

/-- A per-byte row that answers a next state is `Drain` of its byte. -/
theorem exec_row_next {i : Instr} {ph : Phase} (hrow : rowPhase i = some ph) (h : exec i s = .next t) :
    ∃ x, drainAll [x] s = .ok t := by
  obtain ⟨x, -, hexec⟩ := exec_row hrow s
  rw [hexec] at h
  exact ⟨x, (rxByte_eq_settle x s).trans (whenSelected_next.mp h).2⟩

/-- A frame that answers a next state is `Drain` of its bytes. -/
theorem finish_rxBytes_next {p : List Byte} (h : finish (rxBytes p s) = .next t) : drainAll p s = .ok t :=
  (rxBytes_eq_drainAll p s).symm.trans (finish_next.mp h)

/-- Everything an operation can do. -/
theorem exec_cases {i : Instr} (h : exec i s = .next t) : ExecCase s i t := by
  cases i with
  | skip | sync1 | sync2 | resync1 | desync | cls | idb | lenl | lenh | payl | cka | ckb =>
    obtain ⟨x, hx⟩ := exec_row_next (ph := _) rfl h
    exact .receive hx
  | frame | ackAck | ackNak => exact .receive (finish_rxBytes_next h)
  | rx b => exact .receive (finish_next.mp h)
  | rd r => exact Host.Outcome.next.inj h ▸ .rd r
  | wr r v =>
    by_cases hr : r = 9
    · subst hr
      obtain rfl | rfl | habort := writeCmd_cases (finish_next.mp h)
      · exact .idle
      · exact .flush
      · exact .of_abortCandidate (.inr ⟨v, rfl⟩) habort
    · obtain rfl := Host.Outcome.next.inj ((execWr_of_ne v s hr).symm.trans h)
      exact .idle
  | flush => exact Host.Outcome.next.inj h ▸ .flush
  | abort => exact .of_abortCandidate (.inl rfl) (finish_next.mp h)
  | encode c d p =>
    by_cases hp : p.length ≤ maxPayload
    · obtain rfl := Host.Outcome.next.inj ((execEncode_of_le c d s hp).symm.trans h)
      exact .encode c d p
    · obtain rfl := Host.Outcome.next.inj ((execEncode_of_gt c d s (Nat.lt_of_not_le hp)).symm.trans h)
      exact .idle
  | reset => exact Host.Outcome.next.inj h ▸ .reset

/-! What an operation reports: events, counts, bytes skipped. `ABORT` also counts itself, before all else. -/

/-- The state with `j` more aborts counted. -/
def countAborts (j : Nat) (s : State) : State := { s with abortCnt := satAdd s.abortCnt j }

@[simp] theorem countAborts_zero (s : State) : countAborts 0 s = s := by rw [countAborts, satAdd_zero]

/-- `FLUSH` reports its bytes as skipped. -/
theorem flushCandidate_reports (s : State) : Reports [] s.n s (flushCandidate s) := by
  constructor <;> simp [flushCandidate, countKind, SameOutside]

/-- `ABORT` once it has counted itself reports its first byte as skipped, and then what the re-scan reports. -/
theorem abort_reports {p : List Byte} (h : drainAll p (clear (bumpSkip 1 (bumpAbort s))) = .ok t) :
    ∃ es k, Reports es k (countAborts 1 s) t := by
  obtain ⟨es, k, hreports⟩ := drainAll_reports h
  have hdrop : Reports [] 1 (bumpAbort s) (clear (bumpSkip 1 (bumpAbort s))) := by
    constructor <;> simp [countKind, SameOutside]
  exact ⟨[] ++ es, k + 1, hdrop.trans hreports⟩

/-- Every operation but `ENCODE`, `RD` and `RESET` is a report, after the aborts that it counts. -/
theorem ExecCase.reports {i : Instr} (h : ExecCase s i t) :
    (∃ es k j, Reports es k (countAborts j s) t ∧ (j = 0 ∨ i = .abort ∨ ∃ v, i = .wr 9 v)) ∨
      (∃ c d p, i = .encode c d p ∧ t = send (encodeFrame c d p) s) ∨
      (∃ r, i = .rd r ∧ t = returnWord (hostReg s r) s) ∨ (i = .reset ∧ t = zeroCounters (clear s)) := by
  have hnoAbort : ∀ {es k}, Reports es k s t →
      ∃ es k j, Reports es k (countAborts j s) t ∧ (j = 0 ∨ i = .abort ∨ ∃ v, i = .wr 9 v) :=
    fun {es k} h => ⟨es, k, 0, by rwa [countAborts_zero], .inl rfl⟩
  cases h with
  | receive h =>
    obtain ⟨es, k, h⟩ := drainAll_reports h
    exact .inl (hnoAbort h)
  | idle => exact .inl (hnoAbort (.refl s))
  | flush => exact .inl (hnoAbort (flushCandidate_reports s))
  | abort hi h =>
    obtain ⟨es, k, h⟩ := abort_reports h
    exact .inl ⟨es, k, 1, h, .inr hi⟩
  | encode c d p => exact .inr (.inl ⟨c, d, p, rfl, rfl⟩)
  | rd r => exact .inr (.inr (.inl ⟨r, rfl, rfl⟩))
  | reset => exact .inr (.inr (.inr ⟨rfl, rfl⟩))

/-- What every operation but `RESET` counts: the events it puts out, by their kinds, and bytes skipped and aborts. -/
theorem ExecCase.counts {i : Instr} (h : ExecCase s i t) (hreset : i ≠ .reset) :
    ∃ es k j, t.evq = s.evq ++ es ∧ t.frameCnt = satAdd s.frameCnt (countKind 1#2 es) ∧
      t.ckerrCnt = satAdd s.ckerrCnt (countKind 2#2 es) ∧ t.ovszCnt = satAdd s.ovszCnt (countKind 3#2 es) ∧
      t.skipCnt = satAdd s.skipCnt k ∧ t.abortCnt = satAdd s.abortCnt j := by
  obtain ⟨es, k, j, h, -⟩ | ⟨c, d, p, -, rfl⟩ | ⟨r, -, rfl⟩ | ⟨hi, -⟩ := h.reports
  · exact ⟨es, k, j, h.evq, h.frameCnt, h.ckerrCnt, h.ovszCnt, h.skipCnt, h.abortCnt⟩
  · exact ⟨[], 0, 0, by simp [countKind]⟩
  · exact ⟨[], 0, 0, by simp [countKind]⟩
  · exact absurd hi hreset

end

/-- Settles O56: one of the counts of every operation but `RESET`. -/
theorem countersCountEvents : Obligations.CountersCountEvents := by
  intro i s t hreset h
  obtain ⟨es, -, -, hevq, hframe, hckerr, hovsz, -⟩ := (exec_cases h).counts hreset
  exact ⟨es, hevq, hframe, hckerr, hovsz⟩

/-- Settles O53: every counter after it is a saturated sum with the counter before. -/
theorem onlyResetLowersACounter : Obligations.OnlyResetLowersACounter := by
  intro i s t hreset h
  obtain ⟨es, k, j, -, hframe, hckerr, hovsz, hskip, habort⟩ := (exec_cases h).counts hreset
  rw [hframe, hckerr, hovsz, hskip, habort]
  exact ⟨le_satAdd _ _, le_satAdd _ _, le_satAdd _ _, le_satAdd _ _, le_satAdd _ _⟩

/-- Settles O55: the frame of a report; only an `ABORT` counts aborts. -/
theorem receiveOperationsFrame : Obligations.ReceiveOperationsFrame := by
  intro i s t hencode hrd hreset h
  obtain ⟨es, k, j, hreports, hj⟩ | ⟨c, d, p, hi, -⟩ | ⟨r, hi, -⟩ | ⟨hi, -⟩ := (exec_cases h).reports
  · refine ⟨hreports.txq, hreports.rdq, hreports.outside.1, hreports.outside.2, fun habort hwr => ?_⟩
    obtain rfl | hi | ⟨v, hi⟩ := hj
    · rw [hreports.abortCnt, countAborts_zero]
    · exact absurd hi habort
    · exact absurd hi (hwr v)
  · exact absurd hi (hencode c d p)
  · exact absurd hi (hrd r)
  · exact absurd hi hreset

/-- Settles O54: `ENCODE` appends bytes sent, `RD` a value returned, `RESET` nothing, every other operation events. -/
theorem outputHistoriesOnlyGrow : Obligations.OutputHistoriesOnlyGrow := by
  intro i s t h
  obtain ⟨es, k, j, h, -⟩ | ⟨c, d, p, -, rfl⟩ | ⟨r, -, rfl⟩ | ⟨-, rfl⟩ := (exec_cases h).reports
  · exact ⟨⟨es, h.evq.symm⟩, h.txq ▸ List.prefix_rfl, h.rdq ▸ List.prefix_rfl⟩
  · exact ⟨List.prefix_rfl, List.prefix_append _ _, List.prefix_rfl⟩
  · exact ⟨List.prefix_rfl, List.prefix_rfl, List.prefix_append _ _⟩
  · exact ⟨List.prefix_rfl, List.prefix_rfl, List.prefix_rfl⟩

/-- Settles O52: the buffer is left, emptied, or written by a `Drain`, which keeps the order of its cells. -/
theorem operationsKeepTheCanonicalBuffer : Obligations.OperationsKeepTheCanonicalBuffer := by
  intro i s t hs h
  cases exec_cases h with
  | receive h => exact drainAll_wf h hs
  | idle | encode | rd => exact hs
  | flush | reset => exact List.Pairwise.nil
  | abort _ h => exact drainAll_wf h List.Pairwise.nil

end Sys2Proof.Machine
end

section
/-! Proofs about the machine's step (`00_scope.md` R9, `60_exceptions.md` R207, R208): which request it takes, in which
order, and that from a consistent state it always ends in one. -/

namespace Sys2Proof.Machine

/-- Settles O48: nothing is held, and every register is 0. -/
theorem resetIsConsistent : Obligations.ResetIsConsistent := consistent_clear State.reset

/-- Every operation leaves a consistent state consistent. -/
theorem Consistent.exec_keeps {i : Instr} {s t : State} (hs : Consistent s) (h : exec i s = .next t) :
    Consistent t := by
  have hdrain : ∀ {u p}, Consistent u → drainAll p u = .ok t → Consistent t := fun {u p} hu hp => by
    obtain ⟨t', ht', hcons⟩ := hu.drainAll_ok p
    obtain rfl := Except.ok.inj (ht'.symm.trans hp)
    exact hcons
  cases exec_cases h with
  | receive h => exact hdrain hs h
  | idle => exact hs
  | flush => exact consistent_clear _
  | abort _ h => exact hdrain (consistent_clear _) h
  | encode | rd => exact hs.sameCandidate rfl
  | reset => exact (consistent_clear s).sameCandidate rfl

/-- A write to `CMD` runs to its end from a consistent state: only an `ABORT` could stop. -/
theorem Consistent.writeCmd_ok {s : State} (hs : Consistent s) (v : Word) : ∃ t, writeCmd v s = .ok t := by
  cases h0 : v.getLsbD 0 <;> cases h1 : v.getLsbD 1
  · exact ⟨s, writeCmd_of_neither s h0 h1⟩
  · obtain ⟨t, habort, -⟩ := hs.abortCandidate_ok
    exact ⟨t, (writeCmd_of_abort s h0 h1).trans habort⟩
  · exact ⟨_, writeCmd_of_flush s h0 h1⟩
  · exact ⟨_, (writeCmd_of_both s h0 h1).trans (abortCandidate_of_n_zero (flushCandidate_n s))⟩

/-- Settles O51: from a consistent state `Drain` runs to its end, and so does `ABORT`; nothing else can stop. -/
theorem everyOperationCompletes : Obligations.EveryOperationCompletes := by
  intro i s hs ⟨hwf, hrow⟩
  have hframe : ∀ p, ∃ t, finish (rxBytes p s) = .next t := fun p => by
    obtain ⟨t, ht, -⟩ := hs.drainAll_ok p
    exact ⟨t, finish_next.mpr ((rxBytes_eq_drainAll p s).trans ht)⟩
  obtain hrow | hrow := hrow
  · cases i with
    | skip | sync1 | sync2 | resync1 | desync | cls | idb | lenl | lenh | payl | cka | ckb => cases hrow
    | frame | ackAck | ackNak => exact hframe _
    | rd | flush | reset => exact ⟨_, rfl⟩
    | wr r v =>
      by_cases hr : r = 9
      · obtain ⟨t, ht⟩ := hs.writeCmd_ok v
        exact ⟨t, hr ▸ finish_next.mpr ht⟩
      · exact ⟨s, execWr_of_ne v s hr⟩
    | abort =>
      obtain ⟨t, ht, -⟩ := hs.abortCandidate_ok
      exact ⟨t, finish_next.mpr ht⟩
    | encode c d p =>
      by_cases hp : p.length ≤ maxPayload
      · exact ⟨_, execEncode_of_le c d s hp⟩
      · exact ⟨s, execEncode_of_gt c d s (Nat.lt_of_not_le hp)⟩
    | rx b =>
      obtain ⟨t, ht, -⟩ := hs.drainAll_ok [b]
      exact ⟨t, finish_next.mpr ht⟩
  · obtain ⟨x, -, hexec⟩ := exec_row hrow s
    obtain ⟨t, ht, -⟩ := hs.drainAll_ok [x]
    rw [hwf, decide_eq_true rfl] at hexec
    exact ⟨t, hexec.trans (finish_next.mpr ((rxByte_eq_settle x s).symm.trans ht))⟩

/-- Taking a request from the input keeps consistency. -/
theorem Consistent.afterFetch_keeps {s : State} (hs : Consistent s) : Consistent (afterFetch s) := by
  obtain ⟨left, h⟩ := afterFetch_eq s
  rw [h]
  exact hs.sameCandidate rfl

/-- A request that names no operation is received bytes, whose `Drain` runs to its end, or nothing. -/
theorem Consistent.applyUnnamed_ok {s : State} (hs : Consistent s) (r : Request) :
    ∃ t, applyUnnamed r s = .next t ∧ Consistent t := by
  by_cases hport : carriesReceived r.port = true
  · obtain ⟨t, ht, hcons⟩ := hs.drainAll_ok r.bytes
    exact ⟨t, (if_pos hport).trans (finish_next.mpr ((rxBytes_eq_drainAll _ _).trans ht)), hcons⟩
  · exact ⟨s, if_neg hport, hs⟩

/-! The three things a step can be (R9, R207, R208). -/

section
variable {s : State} {r : Request}

theorem step_of_none (h : fetchRequest s = none) : step s = .next s := by rw [step, h]

theorem step_of_ok {i : Instr} (h : fetchRequest s = some r) (hdec : decode s.phase r = .ok i) :
    step s = exec i (afterFetch s) := by
  rw [step, h]
  simp only [hdec]

theorem step_of_error {why : Reject} (h : fetchRequest s = some r) (hdec : decode s.phase r = .error why) :
    step s = applyUnnamed r (afterFetch s) := by
  rw [step, h]
  simp only [hdec]

end

/-- From a consistent state a step ends in a consistent state, whatever is presented: what decodes is an operation that
the block performs. -/
theorem Consistent.step_ok {s : State} (hs : Consistent s) : ∃ t, step s = .next t ∧ Consistent t := by
  cases hfetch : fetchRequest s with
  | none => exact ⟨s, step_of_none hfetch, hs⟩
  | some r =>
    cases hdec : decode s.phase r with
    | error why =>
      rw [step_of_error hfetch hdec]
      exact hs.afterFetch_keeps.applyUnnamed_ok r
    | ok i =>
      obtain ⟨hwf, hrow, -⟩ := decodedOperationsAreWellFormed s.phase r i hdec
      obtain ⟨t, ht⟩ := everyOperationCompletes i (afterFetch s) hs.afterFetch_keeps
        ⟨hwf, by rwa [afterFetch_phase]⟩
      exact ⟨t, (step_of_ok hfetch hdec).trans ht, hs.afterFetch_keeps.exec_keeps ht⟩

/-- Settles O49: a step from a consistent state has one outcome. -/
theorem stepKeepsConsistency : Obligations.StepKeepsConsistency := by
  intro s t hs h
  obtain ⟨t', ht', hcons⟩ := hs.step_ok
  exact Host.Outcome.next.inj (ht'.symm.trans h) ▸ hcons

/-- Settles O50: that outcome is a next state. -/
theorem stepNeverFaultsFromConsistentState : Obligations.StepNeverFaultsFromConsistentState := by
  intro s hs
  obtain ⟨t, ht, -⟩ := hs.step_ok
  refine ⟨fun f hf => ?_, t, ht⟩
  rw [ht] at hf
  cases hf

/-! Which request a step takes (R9). -/

section
variable {s : State} {idle later : List Instant} {now others : Instant} {r : Request}

/-- Instants at which nothing is presented are passed over. -/
theorem nextRequest_idle (ph : Phase) (later : List Instant) : ∀ idle : List Instant, (∀ e ∈ idle, e = []) →
    nextRequest ph (idle ++ later) = nextRequest ph later
  | [], _ => rfl
  | e :: idle, h => by
    obtain rfl := h e (by simp)
    exact nextRequest_idle ph later idle fun e he => h e (by simp [he])

/-- Past idle instants the request picked at the next one is taken, and it alone. -/
theorem nextRequest_of_pickFirst (hidle : ∀ e ∈ idle, e = []) (hin : s.input = idle ++ now :: later)
    (hpick : pickFirst s.phase now = some (r, others)) :
    nextRequest s.phase s.input = some (r, if others = [] then later else others :: later) := by
  rw [hin, nextRequest_idle _ _ idle hidle, nextRequest_cons later hpick]

theorem fetchRequest_of_pickFirst (hidle : ∀ e ∈ idle, e = []) (hin : s.input = idle ++ now :: later)
    (hpick : pickFirst s.phase now = some (r, others)) : fetchRequest s = some r := by
  rw [fetchRequest, nextRequest_of_pickFirst hidle hin hpick]
  rfl

theorem afterFetch_of_pickFirst (hidle : ∀ e ∈ idle, e = []) (hin : s.input = idle ++ now :: later)
    (hpick : pickFirst s.phase now = some (r, others)) :
    afterFetch s = { s with input := if others = [] then later else others :: later } := by
  rw [afterFetch, nextRequest_of_pickFirst hidle hin hpick]

end

/-- Settles O57: the step on the picked request, which decodes. -/
theorem stepRunsTheDecodedOperation : Obligations.StepRunsTheDecodedOperation := by
  intro s idle later now others r i hidle hin hpick hdec
  rw [step_of_ok (fetchRequest_of_pickFirst hidle hin hpick) hdec, afterFetch_of_pickFirst hidle hin hpick]

/-- The ports that carry received bytes. -/
theorem carriesReceived_iff (p : Port) : carriesReceived p = true ↔ p = .rxByte ∨ p = .wire ∨ p = .rx := by
  cases p <;> simp [carriesReceived]

/-- Settles O58: the step on a request that does not decode, on a receive port or another. -/
theorem requestsThatNameNoOperationStopNothing : Obligations.RequestsThatNameNoOperationStopNothing := by
  intro s idle later now others r why hidle hin hpick hdec
  rw [step_of_error (fetchRequest_of_pickFirst hidle hin hpick) hdec, afterFetch_of_pickFirst hidle hin hpick,
    ← carriesReceived_iff]
  refine ⟨fun hport => ?_, fun hport => ?_⟩
  · rw [← rxBytes_eq_drainAll]
    exact if_pos hport
  · exact if_neg hport

/-- Settles O59: no request is found. -/
theorem idleBlockKeepsAllState : Obligations.IdleBlockKeepsAllState := by
  intro s hidle
  have hnext : nextRequest s.phase s.input = none := by
    have h := nextRequest_idle s.phase [] s.input hidle
    rwa [List.append_nil] at h
  exact step_of_none (by rw [fetchRequest, hnext]; rfl)

/-- Only an empty instant has no request to pick. -/
theorem pickFirst_eq_none {ph : Phase} {now : Instant} (h : pickFirst ph now = none) : now = [] := by
  cases now with
  | nil => rfl
  | cons r rs =>
    rw [pickFirst] at h
    split at h
    · cases h
    · split at h <;> cases h

/-- The request picked is the first of the least rank, and the others keep their order. -/
theorem pickFirst_spec {ph : Phase} : ∀ {now others : Instant} {r : Request}, pickFirst ph now = some (r, others) →
    ∃ before after, now = before ++ r :: after ∧ others = before ++ after ∧
      (∀ q ∈ before, rank ph r < rank ph q) ∧ ∀ q ∈ after, rank ph r ≤ rank ph q := by
  intro now
  induction now with
  | nil => intro others r h; cases h
  | cons first rest ih =>
    intro others r h
    rw [pickFirst] at h
    cases hrest : pickFirst ph rest with
    | none =>
      obtain rfl := pickFirst_eq_none hrest
      obtain ⟨rfl, rfl⟩ : first = r ∧ [] = others := by simpa [hrest] using h
      exact ⟨[], [], rfl, rfl, by simp, by simp⟩
    | some qo =>
      obtain ⟨q, left⟩ := qo
      obtain ⟨before, after, rfl, rfl, hbefore, hafter⟩ := ih hrest
      simp only [hrest] at h
      split at h
      next hlt =>
        obtain ⟨rfl, rfl⟩ : q = r ∧ first :: (before ++ after) = others := by simpa using h
        exact ⟨first :: before, after, rfl, rfl, by simpa [hlt] using hbefore, hafter⟩
      next hge =>
        obtain ⟨rfl, rfl⟩ : first = r ∧ before ++ q :: after = others := by simpa using h
        have hq : rank ph first ≤ rank ph q := Nat.le_of_not_lt hge
        refine ⟨[], _, rfl, rfl, by simp, fun x hx => ?_⟩
        obtain hx | rfl | hx : x ∈ before ∨ x = q ∨ x ∈ after := by simpa using hx
        · exact hq.trans (hbefore x hx).le
        · exact hq
        · exact hq.trans (hafter x hx)

/-- The place of a request that decodes is its operation's. -/
theorem rank_of_ok {ph : Phase} {r : Request} {i : Instr} (h : decode ph r = .ok i) : rank ph r = priority i := by
  rw [rank, h]

/-- The place of a request that names no operation (log entry 17). -/
theorem rank_of_error {ph : Phase} {r : Request} {why : Reject} (h : decode ph r = .error why) :
    rank ph r = if carriesReceived r.port then 4 else 6 := by
  rw [rank, h]

/-- The place of a per-byte row is that of `RX`. -/
theorem priority_of_row {i : Instr} (x : Byte) (h : rowPhase i ≠ none) : priority i = priority (.rx x) := by
  cases i with
  | skip | sync1 | sync2 | resync1 | desync | cls | idb | lenl | lenh | payl | cka | ckb => rfl
  | frame | ackAck | ackNak | rd | wr | flush | abort | encode | rx | reset => exact absurd rfl h

/-- A `WR` of another register than `CMD` has the place of `RD`. -/
theorem priority_wr_of_ne {a : Nat} (v : Word) (h : a ≠ 9) : priority (.wr a v) = 3 := if_neg h

/-- Settles O60: the places are numbers, read off `priority` and `rank`; the pick is `pickFirst_spec`. -/
theorem coincidentOperationsTakeTheOrderOfR9 : Obligations.CoincidentOperationsTakeTheOrderOfR9 := by
  refine ⟨fun a b v x c d p ha => ?_, fun v b => ⟨fun h0 => ?_, fun h0 h1 => ?_, fun h0 h1 => ?_⟩,
    fun i x c d a b p => ⟨priority_of_row x, rfl, rfl, rfl⟩,
    fun ph r x c d p => ⟨fun i => rank_of_ok, fun why hdec => ?_⟩, fun ph now others r => pickFirst_spec⟩
  · rw [priority_wr_of_ne v ha]
    simp [priority]
  · simp only [priority, h0, if_true]
  · simp only [priority, h0, h1, Bool.false_eq_true, if_true, if_false]
  · simp only [priority, h0, h1, Bool.false_eq_true, if_true, if_false]
  · rw [rank_of_error hdec, ← carriesReceived_iff]
    exact ⟨fun hport => if_pos hport, fun hport => by rw [if_neg hport]; exact Nat.lt_succ_self 5⟩

end Sys2Proof.Machine
end

section
/-! Proofs about the registers the host reads (`10_state.md` R38 to R47, R50, `43_host_ops.md` R170). -/

namespace Sys2Proof.Machine

/-- Fields side by side as a number: the upper one counts in units above the lower one. -/
theorem toNat_append_eq {m n : Nat} (v : BitVec m) (w : BitVec n) : (v ++ w).toNat = v.toNat * 2 ^ n + w.toNat := by
  rw [BitVec.toNat_append, ← Nat.shiftLeft_add_eq_or_of_lt w.isLt, Nat.shiftLeft_eq]

/-- A flag as a number. -/
theorem toNat_decide (p : Prop) [Decidable p] : (decide p).toNat = if p then 1 else 0 := by
  by_cases h : p <;> simp [h]

/-- `STATUS` as a number: the phase code, `INCOMPLETE` in bit 4, `HDR_VALID` in bit 5 (R39). -/
theorem statusReg_toNat (s : State) :
    (statusReg s).toNat = phaseCode s.phase + 16 * (if 0 < s.n then 1 else 0) + 32 * (if 6 ≤ s.n then 1 else 0) := by
  have hcode : phaseCode s.phase < 16 := by cases s.phase <;> decide
  simp only [statusReg, toNat_append_eq, BitVec.toNat_ofNat, BitVec.toNat_ofBool, incomplete, hdrValid,
    Nat.mod_eq_of_lt hcode, toNat_decide]
  omega

theorem hdrReg_toNat (s : State) : (hdrReg s).toNat = s.cls.toNat + 256 * s.id.toNat + 65536 * s.len.toNat := by
  simp only [hdrReg, toNat_append_eq]
  omega

theorem ckReg_toNat (s : State) : (ckReg s).toNat = s.ckA.toNat + 256 * s.ckB.toNat := by
  simp only [ckReg, toNat_append_eq, BitVec.toNat_ofNat]
  omega

theorem maxlenReg_toNat (s : State) : (maxlenReg s).toNat = s.cfg.maxLen.toNat :=
  BitVec.toNat_setWidth_of_le (by decide)

/-- A number above 10 names no register (R47). -/
theorem hostReg_of_gt {i : Nat} (s : State) (h : 10 < i) : hostReg s i = 0#32 := by
  obtain ⟨k, rfl⟩ := Nat.exists_eq_add_of_le' h
  rfl

/-- Settles O39: register by register. -/
theorem rdReturnsTheRegister : Obligations.RdReturnsTheRegister := by
  intro i s
  refine ⟨hostReg s i, rfl, ?status, ?level, ?hdr, ?ck, ?frameCnt, ?ckerrCnt, ?ovszCnt, ?skipCnt, ?abortCnt, ?cmd,
    ?maxlen, hostReg_of_gt s⟩
  case status => rintro rfl; exact statusReg_toNat s
  case level => rintro rfl; exact levelReg_toNat
  case hdr => rintro rfl; exact hdrReg_toNat s
  case ck => rintro rfl; exact ckReg_toNat s
  case maxlen => rintro rfl; exact maxlenReg_toNat s
  case frameCnt | ckerrCnt | ovszCnt | skipCnt | abortCnt | cmd => rintro rfl; rfl

/-- Settles O47: each register up to `CMD` is a view of a field that is 0. -/
theorem resetStateAsTheHostReadsIt : Obligations.ResetStateAsTheHostReadsIt := by
  refine ⟨fun i hi => ?_, rfl, rfl, rfl, rfl, rfl⟩
  interval_cases i <;> decide

end Sys2Proof.Machine
end
